-- ==== Sys2Proof/Word.lean ====
section
/-!
DEFINITION. The plainest data of the model: bytes and byte strings of a fixed length (spec rules R8, R9, R45).
-/

namespace Sys2Proof

/-- One byte of a buffer. Bit 7 is the most significant bit and bit 0 the least significant (R8). -/
abbrev Byte := BitVec 8

/-- A string of exactly `n` bytes in wire order: element k is the byte at offset k (R9, R45). -/
structure Bytes (n : Nat) where
  data : List Byte
  size : data.length = n
deriving DecidableEq, Repr

/-- The byte at offset `k`. Every offset a rule names is below the length (R41); past the end this is 0, which no
rule reads. -/
def Bytes.read {n : Nat} (b : Bytes n) (k : Nat) : Byte :=
  b.data.getD k 0

/-- `b` with the byte at offset `k` replaced. Past the end nothing changes. -/
def Bytes.put {n : Nat} (b : Bytes n) (k : Nat) (v : Byte) : Bytes n :=
  ⟨b.data.set k v, by simp [b.size]⟩

/-- The byte string whose byte at offset `k` is `f k`. -/
def Bytes.tabulate (n : Nat) (f : Nat → Byte) : Bytes n :=
  ⟨(List.range n).map f, by simp⟩

/-- The all-zero byte string (the value of an omitted array field, R82). -/
def Bytes.zero (n : Nat) : Bytes n :=
  ⟨List.replicate n 0, by simp⟩

/-- A 48-byte header image: `IN[0..47]` of a DECODE, `OUT[0..47]` of an ENCODE (R60). -/
abbrev Header48 := Bytes 48

end Sys2Proof
end

