-- ==== Sys2Proof/Machine/Flags.lean ====
section
/-!
DEFINITION. The Field Codec's flag accessors over one byte (spec rules R102, R103, R106): total masking, no failure.
Bounds are `7 >= hi >= lo >= 0`; a request with `hi < lo` names no field and is refused where it is run.
-/

namespace Sys2Proof

/-- The mask of a field `w` bits wide: `(1 << w) - 1`. -/
def fieldMask (w : Nat) : Byte :=
  BitVec.ofNat 8 ((1 <<< w) - 1)

/-- FLAG_GET (R102): `zext_32((b >> lo) & ((1 << w) - 1))` with `w = hi - lo + 1`. -/
def readFlag (b : Byte) (hi lo : Nat) : BitVec 32 :=
  ((b >>> lo) &&& fieldMask (hi - lo + 1)).setWidth 32

/-- FLAG_SET (R103): `(b & ~mask & 0xFF) | ((v << lo) & mask)` with `mask = ((1 << w) - 1) << lo`. -/
def writeFlag (b : Byte) (hi lo : Nat) (v : Byte) : Byte :=
  (b &&& ~~~(fieldMask (hi - lo + 1) <<< lo)) ||| ((v <<< lo) &&& (fieldMask (hi - lo + 1) <<< lo))

end Sys2Proof
end

