-- ==== Sys2Proof/Syntax.lean ====
section
/-!
DEFINITION. Syntax: the 18 tags, the names and values of header fields, the typed header value, the signals of a request port,
and the instructions, one constructor per row of spec/opcode_table.json. Names are the spec's in camelCase; the SNACK field
`type` is `snackType`.
-/

namespace Sys2Proof

/-- The 18 registered tags; the tag of a variant is its opcode (R75, D29). -/
inductive Tag where
  /-- NOP-Out, opcode 0x00 -/
  | nopOut
  /-- SCSI Command, opcode 0x01 -/
  | scsiCmd
  /-- Task Management Function Request, opcode 0x02 -/
  | tmfReq
  /-- Login Request, opcode 0x03 -/
  | loginReq
  /-- Text Request, opcode 0x04 -/
  | textReq
  /-- SCSI Data-Out, opcode 0x05 -/
  | dataOut
  /-- Logout Request, opcode 0x06 -/
  | logoutReq
  /-- SNACK Request, opcode 0x10 -/
  | snack
  /-- NOP-In, opcode 0x20 -/
  | nopIn
  /-- SCSI Response, opcode 0x21 -/
  | scsiRsp
  /-- Task Management Function Response, opcode 0x22 -/
  | tmfRsp
  /-- Login Response, opcode 0x23 -/
  | loginRsp
  /-- Text Response, opcode 0x24 -/
  | textRsp
  /-- SCSI Data-In, opcode 0x25 -/
  | dataIn
  /-- Logout Response, opcode 0x26 -/
  | logoutRsp
  /-- Ready To Transfer, opcode 0x31 -/
  | r2t
  /-- Asynchronous Message, opcode 0x32 -/
  | async
  /-- Reject, opcode 0x3F -/
  | reject
deriving DecidableEq, Repr

/-- The names of the variant fields (R11). -/
inductive Field where
  | final | lun | ttt | cmdsn | expStatsn | read | write | attr | expXferLength | cdb | function
  | rtt | refcmdsn | expDatasn | transit | cont | csg | nsg | maxVersion | minVersion | isid | tsih
  | cid | datasn | bufferOffset | reason | snackType | begrun | runlength | statsn | expCmdsn
  | maxCmdsn | bidiOverflow | bidiUnderflow | overflow | underflow | response | cmdStatus
  | snackTag | biResidualCount | residualCount | activeVersion | statusClass | statusDetail | ack
  | statusPresent | time2wait | time2retain | rttsn | dataOffset | desiredLength | asyncEvent
  | asyncVcode | param1 | param2 | param3
deriving DecidableEq, Repr

/-- The value of one field of a typed header: an integer, or an array of bytes in wire order (R45, R70). How wide it is, or how
many bytes it has, is the affair of the field's row in the build's LAYOUT (`Kind.fits`). A boolean field holds 0 or 1. -/
inductive Value where
  | num (v : Nat)
  | bytes (a : List Byte)
deriving DecidableEq, Repr

/-- The variant part of a typed header: the value of each field, in the order of the rows of its tag's table (R27, R71). -/
abbrev Fields := List (Field × Value)

/-- The common part of a typed header (R27). `w` is the width of `data_length` on the port: 24 bits on the decode
output, 32 bits on the encode request. -/
structure Common (w : Nat) where
  retry : Bool := false
  immediate : Bool := false
  ahsLength : BitVec 8 := 0
  dataLength : BitVec w := 0
  itt : BitVec 32 := 0
deriving DecidableEq, Repr

/-- The typed header value `hdr` (R27). The tag says which variant the fields are of: a build has a table of rows per tag, and
they are that table's fields (R28, R254). A request may carry a tag that is not registered (D12). -/
structure Header (w : Nat) where
  common : Common w := {}
  tag : BitVec 6 := 0
  fields : Fields := []
deriving DecidableEq, Repr

/-- The signals of a request port, as presented (R25). `IN` is its first 48 bytes, which every build has because
`IN_MAX >= 48`, and the rest, which no rule reads (R47). `len` is `LEN_W` bits wide. -/
structure Request where
  cmd : BitVec 3
  len : Nat := 0
  inp : Header48 := Bytes.zero 48
  inpRest : List Byte := []
  hdr : Header 32 := {}
  v : BitVec 32 := 0
  hi : BitVec 3 := 0
  lo : BitVec 3 := 0
  op6 : BitVec 6 := 0
deriving DecidableEq, Repr

/-- The two forms of a PDU row of the opcode table (its `match_on`): the header on the wire, given to DECODE, and the
typed header, given to ENCODE. -/
inductive Xfer where
  /-- DECODE of these 48 bytes. -/
  | wire (b : Header48)
  /-- ENCODE of the header with the row's tag, these common fields and these variant fields. -/
  | typed (c : Common 32) (fields : Fields)
deriving DecidableEq, Repr

/-- The instructions: one constructor per row of spec/opcode_table.json. -/
inductive Instr where
  /-- row NOP_OUT: NOP-Out -/
  | nopOut (x : Xfer)
  /-- row SCSI_CMD: SCSI Command -/
  | scsiCmd (x : Xfer)
  /-- row TMF_REQ: Task Management Function Request -/
  | tmfReq (x : Xfer)
  /-- row LOGIN_REQ: Login Request -/
  | loginReq (x : Xfer)
  /-- row TEXT_REQ: Text Request -/
  | textReq (x : Xfer)
  /-- row DATA_OUT: SCSI Data-Out -/
  | dataOut (x : Xfer)
  /-- row LOGOUT_REQ: Logout Request -/
  | logoutReq (x : Xfer)
  /-- row SNACK: SNACK Request -/
  | snack (x : Xfer)
  /-- row NOP_IN: NOP-In -/
  | nopIn (x : Xfer)
  /-- row SCSI_RSP: SCSI Response -/
  | scsiRsp (x : Xfer)
  /-- row TMF_RSP: Task Management Function Response -/
  | tmfRsp (x : Xfer)
  /-- row LOGIN_RSP: Login Response -/
  | loginRsp (x : Xfer)
  /-- row TEXT_RSP: Text Response -/
  | textRsp (x : Xfer)
  /-- row DATA_IN: SCSI Data-In -/
  | dataIn (x : Xfer)
  /-- row LOGOUT_RSP: Logout Response -/
  | logoutRsp (x : Xfer)
  /-- row R2T: Ready To Transfer -/
  | r2t (x : Xfer)
  /-- row ASYNC: Asynchronous Message -/
  | async (x : Xfer)
  /-- row REJECT: Reject -/
  | reject (x : Xfer)
  /-- row DECODE: a buffer of `len` bytes whose first 48 are `b` (R250) -/
  | decode (len : Nat) (b : Header48)
  /-- row ENCODE: a typed header (R257) -/
  | encode (h : Header 32)
  /-- row U24_DECODE: `IN[0..2]` (R100) -/
  | u24Decode (b : Bytes 3)
  /-- row U24_ENCODE: the operand `v` (R101) -/
  | u24Encode (v : BitVec 32)
  /-- row FLAG_GET: `IN[0]`, `hi`, `lo` (R102) -/
  | flagGet (b : Byte) (hi lo : BitVec 3)
  /-- row FLAG_SET: `IN[0]`, `hi`, `lo`, `v` (R103) -/
  | flagSet (b : Byte) (hi lo : BitVec 3) (v : BitVec 32)
  /-- row LOOKUP: a masked opcode (R233) -/
  | lookup (op6 : BitVec 6)
deriving DecidableEq, Repr

end Sys2Proof
end

