-- ==== Sys2Proof/Machine/Opcodes.lean ====
section
/-!
DEFINITION. The opcode map of spec rule R75: the opcode of each tag, the tag of a masked opcode, the direction, and byte 0
(R62). Opcodes outside the map are the 46 reserved values of R76.
-/

namespace Sys2Proof

/-- The direction a header travels, one bit: 0 InitiatorToTarget, 1 TargetToInitiator (R230, D25). -/
inductive Direction where
  | initiatorToTarget
  | targetToInitiator
deriving DecidableEq, Repr

/-- The direction's bit (R230). -/
def Direction.bit : Direction → BitVec 1
  | .initiatorToTarget => 0
  | .targetToInitiator => 1

/-- All 18 tags, in the order of R75. -/
def Tag.all : List Tag :=
  [.nopOut, .scsiCmd, .tmfReq, .loginReq, .textReq, .dataOut, .logoutReq, .snack,
   .nopIn, .scsiRsp, .tmfRsp, .loginRsp, .textRsp, .dataIn, .logoutRsp, .r2t, .async, .reject]

/-- The 6-bit opcode of a tag (R75). -/
def Tag.code : Tag → BitVec 6
  | .nopOut => 0x00
  | .scsiCmd => 0x01
  | .tmfReq => 0x02
  | .loginReq => 0x03
  | .textReq => 0x04
  | .dataOut => 0x05
  | .logoutReq => 0x06
  | .snack => 0x10
  | .nopIn => 0x20
  | .scsiRsp => 0x21
  | .tmfRsp => 0x22
  | .loginRsp => 0x23
  | .textRsp => 0x24
  | .dataIn => 0x25
  | .logoutRsp => 0x26
  | .r2t => 0x31
  | .async => 0x32
  | .reject => 0x3F

/-- The tag a masked opcode selects, if it is one of the 18 defined ones (R75); the other 46 values are reserved and
select nothing (R76, R235). -/
def Tag.ofCode (c : BitVec 6) : Option Tag :=
  match c.toNat with
  | 0x00 => some .nopOut
  | 0x01 => some .scsiCmd
  | 0x02 => some .tmfReq
  | 0x03 => some .loginReq
  | 0x04 => some .textReq
  | 0x05 => some .dataOut
  | 0x06 => some .logoutReq
  | 0x10 => some .snack
  | 0x20 => some .nopIn
  | 0x21 => some .scsiRsp
  | 0x22 => some .tmfRsp
  | 0x23 => some .loginRsp
  | 0x24 => some .textRsp
  | 0x25 => some .dataIn
  | 0x26 => some .logoutRsp
  | 0x31 => some .r2t
  | 0x32 => some .async
  | 0x3F => some .reject
  | _ => none

/-- The direction column of R75. -/
def Tag.direction : Tag → Direction
  | .nopOut => .initiatorToTarget
  | .scsiCmd => .initiatorToTarget
  | .tmfReq => .initiatorToTarget
  | .loginReq => .initiatorToTarget
  | .textReq => .initiatorToTarget
  | .dataOut => .initiatorToTarget
  | .logoutReq => .initiatorToTarget
  | .snack => .initiatorToTarget
  | .nopIn => .targetToInitiator
  | .scsiRsp => .targetToInitiator
  | .tmfRsp => .targetToInitiator
  | .loginRsp => .targetToInitiator
  | .textRsp => .targetToInitiator
  | .dataIn => .targetToInitiator
  | .logoutRsp => .targetToInitiator
  | .r2t => .targetToInitiator
  | .async => .targetToInitiator
  | .reject => .targetToInitiator

/-- The masked opcode `IN[0] & 0x3F` (R62, R252). -/
def opcodeOf (b : Header48) : BitVec 6 :=
  (b.read 0 &&& 0x3F).setWidth 6

/-- Byte 0 as ENCODE writes it: `(retry << 7) | (immediate << 6) | tag` (R62, R259). -/
def byteZero (retry immediate : Bool) (code : BitVec 6) : Byte :=
  ((BitVec.ofBool retry).setWidth 8 <<< 7) ||| ((BitVec.ofBool immediate).setWidth 8 <<< 6) ||| code.setWidth 8

end Sys2Proof
end

