-- ==== Sys2Proof/Machine/Layout.lean ====
section
/-!
DEFINITION. `LAYOUT` as data (spec rules R7, R70, R71, N1): the kinds of fields, the rows of a layout table, and the
spec's own tables (rules R120 to R197). A position that no row names is reserved (R71). Most offsets are the spec's
reading of RFC 3720, not the source's words (I1; notes/assumptions/7.md).
-/

namespace Sys2Proof

/-- The kinds of a field, with its byte offset (R70). -/
inductive Kind where
  /-- bit `i` of byte `o` -/
  | bit (o i : Nat)
  /-- bits `hi` down to `lo` of byte `o` -/
  | sub (o hi lo : Nat)
  /-- one byte -/
  | u8 (o : Nat)
  /-- two bytes, big-endian -/
  | be16 (o : Nat)
  /-- three bytes, big-endian -/
  | u24 (o : Nat)
  /-- four bytes, big-endian -/
  | be32 (o : Nat)
  /-- `n` bytes in wire order -/
  | bytes (o n : Nat)
deriving DecidableEq, Repr

/-- How many bits of the header a kind takes: its width in `hdr` (R70). -/
def Kind.width : Kind → Nat
  | .bit _ _ => 1
  | .sub _ hi lo => hi - lo + 1
  | .u8 _ => 8
  | .be16 _ => 16
  | .u24 _ => 24
  | .be32 _ => 32
  | .bytes _ n => 8 * n

/-- Whether a value is one that a field of this kind holds, by the kind's "width in `hdr`" column (R70): an integer below two to
the width, or an array of exactly `n` bytes. For a `u24` field this is the range check of R101. -/
def Kind.fits (k : Kind) (v : Value) : Bool :=
  match k, v with
  | .bytes _ n, .bytes a => a.length == n
  | .bytes _ _, .num _ => false
  | k, .num v => decide (v < 2 ^ k.width)
  | _, .bytes _ => false

/-- The value of a field that a request omits: 0, false, or all-zero bytes (R82). -/
def Kind.zero : Kind → Value
  | .bytes _ n => .bytes (List.replicate n 0)
  | .bit _ _ | .sub _ _ _ | .u8 _ | .be16 _ | .u24 _ | .be32 _ => .num 0

/-- One row of a layout table (R71). Reserved rows are left out, the common fields are `Layout.common`. -/
structure Row where
  field : Field
  kind : Kind
deriving DecidableEq, Repr

/-- `LAYOUT`: a table per tag (R7, R71). -/
abbrev Layout := List (Tag × List Row)

/-- The rows of a tag's table. -/
def Layout.rows (l : Layout) (t : Tag) : List Row :=
  ((l.find? fun p => p.1 == t).map (·.2)).getD []

/-- Whether the fields of a header are those of a table: one for each row, in the order of the rows, of the row's name and with
a value of the row's kind (R27, R70). -/
def fieldsFit : List Row → Fields → Bool
  | [], [] => true
  | r :: rows, p :: fields => r.field == p.1 && r.kind.fits p.2 && fieldsFit rows fields
  | _, _ => false

/-- A header's fields where a request omits them all (R82). -/
def zeroFields (rows : List Row) : Fields :=
  rows.map fun r => (r.field, r.kind.zero)

/-- The positions every variant shares (R61): byte 0, `ahs_length`, `data_length`, `itt`. -/
def Layout.common : List Kind :=
  [.bit 0 7, .bit 0 6, .sub 0 5 0, .u8 4, .u24 5, .be32 16]

/-- R120: the layout of NOP_OUT. -/
def Layout.nopOut : List Row :=
  [⟨.final, .bit 1 7⟩, ⟨.lun, .bytes 8 8⟩, ⟨.ttt, .be32 20⟩, ⟨.cmdsn, .be32 24⟩, ⟨.expStatsn, .be32 28⟩]

/-- R123: the layout of SCSI_CMD. -/
def Layout.scsiCmd : List Row :=
  [⟨.final, .bit 1 7⟩, ⟨.read, .bit 1 6⟩, ⟨.write, .bit 1 5⟩, ⟨.attr, .sub 1 2 0⟩, ⟨.lun, .bytes 8 8⟩,
   ⟨.expXferLength, .be32 20⟩, ⟨.cmdsn, .be32 24⟩, ⟨.expStatsn, .be32 28⟩, ⟨.cdb, .bytes 32 16⟩]

/-- R127: the layout of TMF_REQ. -/
def Layout.tmfReq : List Row :=
  [⟨.function, .sub 1 6 0⟩, ⟨.lun, .bytes 8 8⟩, ⟨.rtt, .be32 20⟩, ⟨.cmdsn, .be32 24⟩, ⟨.expStatsn, .be32 28⟩,
   ⟨.refcmdsn, .be32 32⟩, ⟨.expDatasn, .be32 36⟩]

/-- R131: the layout of LOGIN_REQ. -/
def Layout.loginReq : List Row :=
  [⟨.transit, .bit 1 7⟩, ⟨.cont, .bit 1 6⟩, ⟨.csg, .sub 1 3 2⟩, ⟨.nsg, .sub 1 1 0⟩, ⟨.maxVersion, .u8 2⟩,
   ⟨.minVersion, .u8 3⟩, ⟨.isid, .bytes 8 6⟩, ⟨.tsih, .be16 14⟩, ⟨.cid, .be16 20⟩, ⟨.cmdsn, .be32 24⟩,
   ⟨.expStatsn, .be32 28⟩]

/-- R135: the layout of TEXT_REQ. -/
def Layout.textReq : List Row :=
  [⟨.final, .bit 1 7⟩, ⟨.cont, .bit 1 6⟩, ⟨.ttt, .be32 20⟩, ⟨.cmdsn, .be32 24⟩, ⟨.expStatsn, .be32 28⟩]

/-- R138: the layout of DATA_OUT. -/
def Layout.dataOut : List Row :=
  [⟨.final, .bit 1 7⟩, ⟨.lun, .bytes 8 8⟩, ⟨.ttt, .be32 20⟩, ⟨.expStatsn, .be32 28⟩, ⟨.datasn, .be32 36⟩,
   ⟨.bufferOffset, .be32 40⟩]

/-- R141: the layout of LOGOUT_REQ. -/
def Layout.logoutReq : List Row :=
  [⟨.final, .bit 1 7⟩, ⟨.reason, .sub 1 6 0⟩, ⟨.cid, .be16 20⟩, ⟨.cmdsn, .be32 24⟩, ⟨.expStatsn, .be32 28⟩]

/-- R144: the layout of SNACK. -/
def Layout.snack : List Row :=
  [⟨.final, .bit 1 7⟩, ⟨.snackType, .sub 1 3 0⟩, ⟨.ttt, .be32 20⟩, ⟨.expStatsn, .be32 28⟩,
   ⟨.begrun, .be32 40⟩, ⟨.runlength, .be32 44⟩]

/-- R170: the layout of NOP_IN. -/
def Layout.nopIn : List Row :=
  [⟨.final, .bit 1 7⟩, ⟨.lun, .bytes 8 8⟩, ⟨.ttt, .be32 20⟩, ⟨.statsn, .be32 24⟩, ⟨.expCmdsn, .be32 28⟩,
   ⟨.maxCmdsn, .be32 32⟩]

/-- R173: the layout of SCSI_RSP. -/
def Layout.scsiRsp : List Row :=
  [⟨.final, .bit 1 7⟩, ⟨.bidiOverflow, .bit 1 4⟩, ⟨.bidiUnderflow, .bit 1 3⟩, ⟨.overflow, .bit 1 2⟩,
   ⟨.underflow, .bit 1 1⟩, ⟨.response, .u8 2⟩, ⟨.cmdStatus, .u8 3⟩, ⟨.snackTag, .be32 20⟩,
   ⟨.statsn, .be32 24⟩, ⟨.expCmdsn, .be32 28⟩, ⟨.maxCmdsn, .be32 32⟩, ⟨.expDatasn, .be32 36⟩,
   ⟨.biResidualCount, .be32 40⟩, ⟨.residualCount, .be32 44⟩]

/-- R176: the layout of TMF_RSP. -/
def Layout.tmfRsp : List Row :=
  [⟨.final, .bit 1 7⟩, ⟨.response, .u8 2⟩, ⟨.statsn, .be32 24⟩, ⟨.expCmdsn, .be32 28⟩, ⟨.maxCmdsn, .be32 32⟩]

/-- R179: the layout of LOGIN_RSP. -/
def Layout.loginRsp : List Row :=
  [⟨.transit, .bit 1 7⟩, ⟨.cont, .bit 1 6⟩, ⟨.csg, .sub 1 3 2⟩, ⟨.nsg, .sub 1 1 0⟩, ⟨.maxVersion, .u8 2⟩,
   ⟨.activeVersion, .u8 3⟩, ⟨.isid, .bytes 8 6⟩, ⟨.tsih, .be16 14⟩, ⟨.statsn, .be32 24⟩,
   ⟨.expCmdsn, .be32 28⟩, ⟨.maxCmdsn, .be32 32⟩, ⟨.statusClass, .u8 36⟩, ⟨.statusDetail, .u8 37⟩]

/-- R182: the layout of TEXT_RSP. -/
def Layout.textRsp : List Row :=
  [⟨.final, .bit 1 7⟩, ⟨.cont, .bit 1 6⟩, ⟨.ttt, .be32 20⟩, ⟨.statsn, .be32 24⟩, ⟨.expCmdsn, .be32 28⟩,
   ⟨.maxCmdsn, .be32 32⟩]

/-- R185: the layout of DATA_IN. -/
def Layout.dataIn : List Row :=
  [⟨.final, .bit 1 7⟩, ⟨.ack, .bit 1 6⟩, ⟨.overflow, .bit 1 2⟩, ⟨.underflow, .bit 1 1⟩,
   ⟨.statusPresent, .bit 1 0⟩, ⟨.cmdStatus, .u8 3⟩, ⟨.lun, .bytes 8 8⟩, ⟨.ttt, .be32 20⟩,
   ⟨.statsn, .be32 24⟩, ⟨.expCmdsn, .be32 28⟩, ⟨.maxCmdsn, .be32 32⟩, ⟨.datasn, .be32 36⟩,
   ⟨.bufferOffset, .be32 40⟩, ⟨.residualCount, .be32 44⟩]

/-- R188: the layout of LOGOUT_RSP. -/
def Layout.logoutRsp : List Row :=
  [⟨.final, .bit 1 7⟩, ⟨.response, .u8 2⟩, ⟨.statsn, .be32 24⟩, ⟨.expCmdsn, .be32 28⟩, ⟨.maxCmdsn, .be32 32⟩,
   ⟨.time2wait, .be16 40⟩, ⟨.time2retain, .be16 42⟩]

/-- R191: the layout of R2T. -/
def Layout.r2t : List Row :=
  [⟨.final, .bit 1 7⟩, ⟨.lun, .bytes 8 8⟩, ⟨.ttt, .be32 20⟩, ⟨.statsn, .be32 24⟩, ⟨.expCmdsn, .be32 28⟩,
   ⟨.maxCmdsn, .be32 32⟩, ⟨.rttsn, .be32 36⟩, ⟨.dataOffset, .be32 40⟩, ⟨.desiredLength, .be32 44⟩]

/-- R194: the layout of ASYNC. -/
def Layout.async : List Row :=
  [⟨.final, .bit 1 7⟩, ⟨.lun, .bytes 8 8⟩, ⟨.statsn, .be32 24⟩, ⟨.expCmdsn, .be32 28⟩, ⟨.maxCmdsn, .be32 32⟩,
   ⟨.asyncEvent, .u8 36⟩, ⟨.asyncVcode, .u8 37⟩, ⟨.param1, .be16 38⟩, ⟨.param2, .be16 40⟩,
   ⟨.param3, .be16 42⟩]

/-- R197: the layout of REJECT. -/
def Layout.reject : List Row :=
  [⟨.final, .bit 1 7⟩, ⟨.reason, .u8 2⟩, ⟨.statsn, .be32 24⟩, ⟨.expCmdsn, .be32 28⟩, ⟨.maxCmdsn, .be32 32⟩,
   ⟨.datasn, .be32 36⟩]

/-- The default `LAYOUT`: the tables of 41_initiator_variants.md and 42_target_variants.md. -/
def Layout.spec : Layout :=
  [(.nopOut, Layout.nopOut),
   (.scsiCmd, Layout.scsiCmd),
   (.tmfReq, Layout.tmfReq),
   (.loginReq, Layout.loginReq),
   (.textReq, Layout.textReq),
   (.dataOut, Layout.dataOut),
   (.logoutReq, Layout.logoutReq),
   (.snack, Layout.snack),
   (.nopIn, Layout.nopIn),
   (.scsiRsp, Layout.scsiRsp),
   (.tmfRsp, Layout.tmfRsp),
   (.loginRsp, Layout.loginRsp),
   (.textRsp, Layout.textRsp),
   (.dataIn, Layout.dataIn),
   (.logoutRsp, Layout.logoutRsp),
   (.r2t, Layout.r2t),
   (.async, Layout.async),
   (.reject, Layout.reject)]

/-! The legal values of the parameter `LAYOUT` (92_eei_decisions.md part 2): tables of the form of R70 and R71. -/

/-- A kind whose positions are all in the header (R60), with the bits of a `sub` in R102's order. -/
abbrev Kind.inHeader : Kind → Prop
  | .bit o i => o < 48 ∧ i < 8
  | .sub o hi lo => o < 48 ∧ lo ≤ hi ∧ hi < 8
  | .u8 o => o + 1 ≤ 48
  | .be16 o => o + 2 ≤ 48
  | .u24 o => o + 3 ≤ 48
  | .be32 o => o + 4 ≤ 48
  | .bytes o n => o + n ≤ 48

/-- The first position of a kind, counted in bits from the start of the header: bit `i` of byte `k` is at `8 * k + (7 - i)`.
From there it takes `Kind.width` positions. -/
def Kind.start : Kind → Nat
  | .bit o i => 8 * o + (7 - i)
  | .sub o hi _ => 8 * o + (7 - hi)
  | .u8 o => 8 * o
  | .be16 o => 8 * o
  | .u24 o => 8 * o
  | .be32 o => 8 * o
  | .bytes o _ => 8 * o

/-- Two kinds that share no position (R71). -/
abbrev Kind.apart (a b : Kind) : Prop :=
  a.start + a.width ≤ b.start ∨ b.start + b.width ≤ a.start

/-- The positions that no row of a tag may name: the common template's (R61) and, in a Task Management Request, bit 7 of byte 1,
where ENCODE writes `P_TMF_BIT7` (R127, R130). -/
def Layout.fixed (t : Tag) : List Kind :=
  Layout.common ++ if t = .tmfReq then [.bit 1 7] else []

/-- The rows of the fields that DECODE checks in byte 1, whose places R125, R129, R133 and R180 write out (R255). -/
def Layout.checked : Tag → List Row
  | .scsiCmd => [⟨.attr, .sub 1 2 0⟩]
  | .tmfReq => [⟨.function, .sub 1 6 0⟩]
  | .loginReq | .loginRsp => [⟨.csg, .sub 1 3 2⟩, ⟨.nsg, .sub 1 1 0⟩]
  | .nopOut | .textReq | .dataOut | .logoutReq | .snack | .nopIn | .scsiRsp | .tmfRsp | .textRsp | .dataIn
  | .logoutRsp | .r2t | .async | .reject => []

/-- A table of the form of R70 and R71: every row is in the header, no two positions are named twice, no two rows have one
name, and the checked fields are where the rules of their checks read them. -/
structure Layout.LawfulRows (t : Tag) (rows : List Row) : Prop where
  inHeader : ∀ r ∈ rows, r.kind.inHeader
  apart : (Layout.fixed t ++ rows.map (·.kind)).Pairwise Kind.apart
  names : (rows.map (·.field)).Nodup
  checked : ∀ r ∈ Layout.checked t, r ∈ rows

/-- A legal value of the parameter `LAYOUT`; what the model does with any other table is in notes/assumptions/11.md. -/
def Layout.lawful (l : Layout) : Prop :=
  ∀ t, Layout.LawfulRows t (l.rows t)

end Sys2Proof
end

