-- ==== Sys2Proof/Machine/Operands.lean ====
section
/-!
DEFINITION. Reading and writing header fields: the pseudocode primitives of spec rule R10, the 24-bit codec (R100, R101),
the field kinds (R70), and the fields of a layout table (R72, R73). Every multi-byte integer is big-endian (R42).
-/

namespace Sys2Proof

/-- `MemRead(o, n)`: the big-endian unsigned value of `IN[o..o+n-1]` (R10). -/
def memRead (b : Header48) (o : Nat) : Nat → Nat
  | 0 => 0
  | n + 1 => memRead b o n * 256 + (b.read (o + n)).toNat

/-- `MemReadBytes(o, n)`: the bytes themselves, in wire order (R10, R45). -/
def memReadBytes (b : Header48) (o n : Nat) : List Byte :=
  (List.range n).map fun k => b.read (o + k)

/-- `MemWrite(o, n, v)`: for k in 0..n-1, `OUT[o+k] <- (v >> (8*(n-1-k))) & 0xFF` (R10). -/
def memWrite (out : Header48) (o n v : Nat) : Header48 :=
  (List.range n).foldl (fun out k => out.put (o + k) (BitVec.ofNat 8 (v >>> (8 * (n - 1 - k))))) out

/-- `MemWriteBytes(o, a)`: for k in 0..len(a)-1, `OUT[o+k] <- a[k]` (R10). -/
def memWriteBytes (out : Header48) (o : Nat) (a : List Byte) : Header48 :=
  (List.range a.length).foldl (fun out k => out.put (o + k) (a.getD k 0)) out

/-- `decode_u24_be`: `(b0 << 16) | (b1 << 8) | b2`, zero-extended to 32 bits (R100). -/
def u24Unpack (b0 b1 b2 : Byte) : BitVec 32 :=
  (b0.setWidth 32 <<< 16) ||| (b1.setWidth 32 <<< 8) ||| b2.setWidth 32

/-- `encode_u24_be`: the three bytes of `v`, or nothing when `v > 0xFFFFFF` (R101). -/
def u24Pack (v : BitVec 32) : Option (Bytes 3) :=
  if 0xFFFFFF < v.toNat then none
  else some ⟨[(v >>> 16).setWidth 8, (v >>> 8).setWidth 8, v.setWidth 8], rfl⟩

/-- The decode column of R70: the value of a field of this kind. -/
def Kind.read (k : Kind) (b : Header48) : Value :=
  match k with
  | .bit o i => .num (readFlag (b.read o) i i).toNat
  | .sub o hi lo => .num (readFlag (b.read o) hi lo).toNat
  | .u8 o => .num (memRead b o 1)
  | .be16 o => .num (memRead b o 2)
  | .u24 o => .num (memRead b o 3)
  | .be32 o => .num (memRead b o 4)
  | .bytes o n => .bytes (memReadBytes b o n)

/-- The encode column of R70: `bit` and `sub` fields are OR-ed into their byte as a FLAG_SET of an all-zero byte (R103), the
others are written with `MemWrite` and `MemWriteBytes`. A value that does not fit the kind never comes here: ENCODE answers
RangeError first (`fieldsFit`, notes/assumptions/10.md). -/
def Kind.write (k : Kind) (v : Value) (out : Header48) : Header48 :=
  match k, v with
  | .bit o i, .num v => out.put o (out.read o ||| writeFlag 0 i i (BitVec.ofNat 8 v))
  | .sub o hi lo, .num v => out.put o (out.read o ||| writeFlag 0 hi lo (BitVec.ofNat 8 v))
  | .u8 o, .num v => memWrite out o 1 v
  | .be16 o, .num v => memWrite out o 2 v
  | .u24 o, .num v => memWrite out o 3 v
  | .be32 o, .num v => memWrite out o 4 v
  | .bytes o _, .bytes a => memWriteBytes out o a
  | .bytes _ _, .num _ => out
  | _, .bytes _ => out

/-- `VDEC_t` (R72): the value of every row of the tag's table, in the order of the rows. -/
def readFields (rows : List Row) (b : Header48) : Fields :=
  rows.map fun r => (r.field, r.kind.read b)

/-- `VENC_t` (R73): the value of every row written at the row's place. -/
def writeFields : List Row → Fields → Header48 → Header48
  | r :: rows, p :: fields, out => writeFields rows fields (r.kind.write p.2 out)
  | _, _, out => out

/-- The integer that a header's fields give a name, if they give it one. -/
def numOf (fields : Fields) (f : Field) : Option Nat :=
  match fields.find? fun p => p.1 == f with
  | some (_, .num v) => some v
  | some (_, .bytes _) => none
  | none => none

end Sys2Proof
end

