-- ==== Sys2Proof/WellFormed.lean ====
section
/-!
DEFINITION. Well-formed instructions and requests. An instruction is well formed when it is the one the decoder gives
for its request: a header on the wire stands under the row of its own opcode; DECODE and ENCODE stand for what no PDU
row matches (notes/assumptions/1.md); a flag field has `hi >= lo` (spec rules R102, R103).
-/

namespace Sys2Proof

/-- A header under the row of tag `t`: on the wire its masked opcode is the row's (R75); typed, every value is a
request, and ENCODE checks its domains (R258). -/
abbrev Xfer.wellFormed (t : Tag) : Xfer → Prop
  | .wire b => opcodeOf b = t.code
  | .typed _ _ => True

/-- `b` is not a header of a registered opcode that DECODE would take: it is short, or its opcode is reserved. -/
abbrev noPduOnWire (len : Nat) (b : Header48) : Prop :=
  len < 48 ∨ Tag.ofCode (opcodeOf b) = none

/-- Well-formed instructions, one clause per constructor. -/
abbrev Instr.wellFormed : Instr → Prop
  | .nopOut x => x.wellFormed .nopOut
  | .scsiCmd x => x.wellFormed .scsiCmd
  | .tmfReq x => x.wellFormed .tmfReq
  | .loginReq x => x.wellFormed .loginReq
  | .textReq x => x.wellFormed .textReq
  | .dataOut x => x.wellFormed .dataOut
  | .logoutReq x => x.wellFormed .logoutReq
  | .snack x => x.wellFormed .snack
  | .nopIn x => x.wellFormed .nopIn
  | .scsiRsp x => x.wellFormed .scsiRsp
  | .tmfRsp x => x.wellFormed .tmfRsp
  | .loginRsp x => x.wellFormed .loginRsp
  | .textRsp x => x.wellFormed .textRsp
  | .dataIn x => x.wellFormed .dataIn
  | .logoutRsp x => x.wellFormed .logoutRsp
  | .r2t x => x.wellFormed .r2t
  | .async x => x.wellFormed .async
  | .reject x => x.wellFormed .reject
  | .decode len b => noPduOnWire len b
  | .encode h => Tag.ofCode h.tag = none
  | .u24Decode _ => True
  | .u24Encode _ => True
  | .flagGet _ hi lo => lo ≤ hi
  | .flagSet _ hi lo _ => lo ≤ hi
  | .lookup _ => True

/-- A header value that the `hdr` signal of a build can carry: under a registered tag its fields are those of the tag's table
(R27, R28, D13). -/
abbrev Header.wellFormed {w : Nat} (layout : Layout) (h : Header w) : Prop :=
  ((Tag.ofCode h.tag).all fun t => fieldsFit (layout.rows t) h.fields) = true

/-- A request that fits a build: `len` is `LEN_W` bits wide, `IN` has `IN_MAX` bytes (R7, R25), and the header given to ENCODE is
one the build's `hdr` signal can carry. -/
abbrev Request.wellFormed (inMax lenW : Nat) (layout : Layout) (q : Request) : Prop :=
  q.len < 2 ^ lenW ∧ 48 + q.inpRest.length = inMax ∧ (q.cmd = 0b001 → q.hdr.wellFormed layout)

end Sys2Proof
end

