-- ==== Sys2Proof/Decode.lean ====
section
/-!
DEFINITION. Decode: from the signals of a request (spec rules R25, R80) to an instruction, total, with reserved codes rejected
by name; the encoder, from an instruction to a request that spells it; and the words of spec/opcode_table.json.

The table's PDU rows match DECODE requests by `IN[0] & 0x3F` and ENCODE requests by the tag, so a request that a PDU row
matches is that row's instruction, and DECODE and ENCODE are left with what no PDU row matches (notes/assumptions/1.md).
-/

namespace Sys2Proof

/-- Why a request spells no instruction. -/
inductive DecodeError where
  /-- `cmd = 0b111` spells no operation (R81). -/
  | reservedCommand
deriving DecidableEq, Repr

/-- The PDU row of tag `t`, given the header on the wire. -/
def pduOfWire (t : Tag) (b : Header48) : Instr :=
  match t with
  | .nopOut => .nopOut (.wire b)
  | .scsiCmd => .scsiCmd (.wire b)
  | .tmfReq => .tmfReq (.wire b)
  | .loginReq => .loginReq (.wire b)
  | .textReq => .textReq (.wire b)
  | .dataOut => .dataOut (.wire b)
  | .logoutReq => .logoutReq (.wire b)
  | .snack => .snack (.wire b)
  | .nopIn => .nopIn (.wire b)
  | .scsiRsp => .scsiRsp (.wire b)
  | .tmfRsp => .tmfRsp (.wire b)
  | .loginRsp => .loginRsp (.wire b)
  | .textRsp => .textRsp (.wire b)
  | .dataIn => .dataIn (.wire b)
  | .logoutRsp => .logoutRsp (.wire b)
  | .r2t => .r2t (.wire b)
  | .async => .async (.wire b)
  | .reject => .reject (.wire b)

/-- The PDU row of tag `t`, given a typed header. -/
def pduOfTyped (t : Tag) (c : Common 32) (fields : Fields) : Instr :=
  match t with
  | .nopOut => .nopOut (.typed c fields)
  | .scsiCmd => .scsiCmd (.typed c fields)
  | .tmfReq => .tmfReq (.typed c fields)
  | .loginReq => .loginReq (.typed c fields)
  | .textReq => .textReq (.typed c fields)
  | .dataOut => .dataOut (.typed c fields)
  | .logoutReq => .logoutReq (.typed c fields)
  | .snack => .snack (.typed c fields)
  | .nopIn => .nopIn (.typed c fields)
  | .scsiRsp => .scsiRsp (.typed c fields)
  | .tmfRsp => .tmfRsp (.typed c fields)
  | .loginRsp => .loginRsp (.typed c fields)
  | .textRsp => .textRsp (.typed c fields)
  | .dataIn => .dataIn (.typed c fields)
  | .logoutRsp => .logoutRsp (.typed c fields)
  | .r2t => .r2t (.typed c fields)
  | .async => .async (.typed c fields)
  | .reject => .reject (.typed c fields)

/-- The PDU row of a typed header's tag (R75, D29); ENCODE itself where the tag is not registered. -/
def pduOfHeader (h : Header 32) : Instr :=
  match Tag.ofCode h.tag with
  | some t => pduOfTyped t h.common h.fields
  | none => .encode h

/-- DECODE of `len` bytes: the row of the masked opcode where there is one (R75, R252). -/
def decodeWire (len : Nat) (b : Header48) : Instr :=
  if len < 48 then .decode len b
  else
    match Tag.ofCode (opcodeOf b) with
    | some t => pduOfWire t b
    | none => .decode len b

/-- The instruction a request spells, by its `cmd` (R80, R81). -/
def decode (q : Request) : Except DecodeError Instr :=
  match q.cmd.toNat with
  | 0 => .ok (decodeWire q.len q.inp)
  | 1 => .ok (pduOfHeader q.hdr)
  | 2 => .ok (.u24Decode ⟨[q.inp.read 0, q.inp.read 1, q.inp.read 2], rfl⟩)
  | 3 => .ok (.u24Encode q.v)
  | 4 => .ok (.flagGet (q.inp.read 0) q.hi q.lo)
  | 5 => .ok (.flagSet (q.inp.read 0) q.hi q.lo q.v)
  | 6 => .ok (.lookup q.op6)
  | _ => .error .reservedCommand

/-- A request with command `cmd` and every other signal 0, for a build with `IN_MAX = inMax`. -/
def blankRequest (inMax : Nat) (cmd : BitVec 3) : Request :=
  { cmd := cmd, inpRest := List.replicate (inMax - 48) 0 }

/-- DECODE of a 48-byte header. -/
def wireRequest (inMax : Nat) (b : Header48) : Request :=
  { blankRequest inMax 0b000 with len := 48, inp := b }

/-- ENCODE of a typed header. -/
def headerRequest (inMax : Nat) (h : Header 32) : Request :=
  { blankRequest inMax 0b001 with hdr := h }

/-- The request of the instruction of tag `t`'s row, by its form. -/
def xferRequest (inMax : Nat) (t : Tag) : Xfer → Request
  | .wire b => wireRequest inMax b
  | .typed c fields => headerRequest inMax ⟨c, t.code, fields⟩

/-- A request that spells the instruction, with every signal the instruction does not use at 0 (R25, R80). -/
def encode (inMax : Nat) : Instr → Request
  | .nopOut x => xferRequest inMax .nopOut x
  | .scsiCmd x => xferRequest inMax .scsiCmd x
  | .tmfReq x => xferRequest inMax .tmfReq x
  | .loginReq x => xferRequest inMax .loginReq x
  | .textReq x => xferRequest inMax .textReq x
  | .dataOut x => xferRequest inMax .dataOut x
  | .logoutReq x => xferRequest inMax .logoutReq x
  | .snack x => xferRequest inMax .snack x
  | .nopIn x => xferRequest inMax .nopIn x
  | .scsiRsp x => xferRequest inMax .scsiRsp x
  | .tmfRsp x => xferRequest inMax .tmfRsp x
  | .loginRsp x => xferRequest inMax .loginRsp x
  | .textRsp x => xferRequest inMax .textRsp x
  | .dataIn x => xferRequest inMax .dataIn x
  | .logoutRsp x => xferRequest inMax .logoutRsp x
  | .r2t x => xferRequest inMax .r2t x
  | .async x => xferRequest inMax .async x
  | .reject x => xferRequest inMax .reject x
  | .decode len b => { blankRequest inMax 0b000 with len := len, inp := b }
  | .encode h => headerRequest inMax h
  | .u24Decode a => { blankRequest inMax 0b010 with inp := memWriteBytes (Bytes.zero 48) 0 a.data }
  | .u24Encode v => { blankRequest inMax 0b011 with v := v }
  | .flagGet b hi lo => { blankRequest inMax 0b100 with inp := (Bytes.zero 48).put 0 b, hi := hi, lo := lo }
  | .flagSet b hi lo v => { blankRequest inMax 0b101 with inp := (Bytes.zero 48).put 0 b, hi := hi, lo := lo, v := v }
  | .lookup op6 => { blankRequest inMax 0b110 with op6 := op6 }

/-- The header whose byte k is bits `8k+7 .. 8k` of a table word (notes/assumptions/2.md). -/
def headerOfWord (w : Nat) : Header48 :=
  Bytes.tabulate 48 fun k => BitVec.ofNat 8 (w >>> (8 * k))

/-- The request a word of spec/opcode_table.json stands for, in a build with this layout. The table has two formats whose words
overlap, so the rows are tried in the table's order: a word that matches a BHS48 row is the first bytes of a 48-byte header given
to DECODE; any other word is a command code, its operands 0. The header of such a word is the one whose tag and fields are all 0
(notes/assumptions/2.md). -/
def requestOfWord (layout : Layout) (nbits w : Nat) : Request :=
  let w := w % 2 ^ nbits
  match (if 6 ≤ nbits then Tag.ofCode (BitVec.ofNat 6 w) else none) with
  | some _ => { cmd := 0b000, len := 48, inp := headerOfWord w }
  | none => { cmd := BitVec.ofNat 3 w, hdr := { tag := 0, fields := zeroFields (layout.rows .nopOut) } }

/-- The instruction the decoder reads from a word of spec/opcode_table.json, in a build with the default layout; `none` where it
rejects it. -/
def decodeTableWord (nbits w : Nat) : Option Instr :=
  match decode (requestOfWord Layout.spec nbits w) with
  | .ok i => some i
  | .error _ => none

end Sys2Proof
end

