-- ==== Sys2Proof/Config.lean ====
section
/-!
DEFINITION. The OPEN build-time parameters (spec rule R7; 92_eei_decisions.md part 2). An OPEN value with no default is an
opaque constant: nothing can be proved of it but the bound the spec gives. `State.params` and `State.ports` hold the
values a machine is built with; these constants are what `State.reset` puts there (notes/assumptions/5.md).
-/

namespace Sys2Proof

/-- `IN_MAX - 48`: the capacity of the input buffer above the 48 bytes every build has (R7, D17). -/
opaque Config.inMaxExtra : Nat

/-- `LEN_W - 6`: the width of `len` above the 6 bits every build has (R7, D17). -/
opaque Config.lenWExtra : Nat

/-- `N_PORTS - 1`: the number of port pairs above the one every build has (R7, D19). -/
opaque Config.nPortsExtra : Nat

/-- `P_TMF_BIT7` at its default, 0 (R7, D9). A machine built with 1 is a state whose `params.tmfBit7` is `true`. -/
def Config.tmfBit7Default : Bool := false

end Sys2Proof
end

