-- ==== Sys2Proof/Machine/Memory.lean ====
section
/-!
DEFINITION. The output buffer `OUT` of a response as cells (offset, byte) in canonical form: offsets strictly rising. An
offset that is not listed has no value, because the response did not produce it (spec rules R26, R40, R298). The block
has no other memory (20_memory.md).
-/

namespace Sys2Proof

/-- Cells (offset, byte). -/
abbrev Memory := List Host.Cell

/-- The byte at an offset; `none` where the response gave the offset no value. -/
def Memory.read (m : Memory) (a : Nat) : Option Byte :=
  (m.find? fun c => c.1 == a).map (·.2)

/-- The cells of a buffer whose byte k is at offset k. -/
def Memory.ofBytes (bs : List Byte) : Memory :=
  bs.zipIdx.map fun p => (p.2, p.1)

/-- The canonical form: offsets strictly rising, so that equal buffers are equal lists. -/
abbrev Memory.wf (m : Memory) : Prop :=
  m.Pairwise fun c d => c.1 < d.1

end Sys2Proof
end

