-- ==== Sys2Proof/Machine/Registry.lean ====
section
/-!
DEFINITION. The opcode registry `REG` (spec rules R21, R230, R231): a 64-entry read-only table.
-/

namespace Sys2Proof

/-- One entry of the registry (R230). -/
structure RegEntry where
  valid : Bool
  tag : BitVec 6
  direction : Direction
deriving DecidableEq, Repr

/-- The registry: entry k is at index k. -/
structure Registry where
  entries : List RegEntry
  size : entries.length = 64
deriving DecidableEq, Repr

/-- `REG[op6]` (R233). -/
def Registry.entry (r : Registry) (op6 : BitVec 6) : RegEntry :=
  r.entries[op6.toNat]'(by rw [r.size]; exact op6.isLt)

/-- A valid entry towards the target. -/
def toTarget (tag : BitVec 6) : RegEntry := ⟨true, tag, .initiatorToTarget⟩

/-- A valid entry towards the initiator. -/
def toInitiator (tag : BitVec 6) : RegEntry := ⟨true, tag, .targetToInitiator⟩

/-- `n` entries that are not valid; their tag and direction are 0 and are never read (R230). -/
def gap (n : Nat) : List RegEntry := List.replicate n ⟨false, 0, .initiatorToTarget⟩

/-- The contents of R231, as its table lists them. -/
def Registry.contents : Registry :=
  ⟨[toTarget 0x00, toTarget 0x01, toTarget 0x02, toTarget 0x03, toTarget 0x04, toTarget 0x05, toTarget 0x06]
    ++ gap 9 ++ [toTarget 0x10] ++ gap 15
    ++ [toInitiator 0x20, toInitiator 0x21, toInitiator 0x22, toInitiator 0x23, toInitiator 0x24, toInitiator 0x25,
        toInitiator 0x26]
    ++ gap 10 ++ [toInitiator 0x31, toInitiator 0x32] ++ gap 12 ++ [toInitiator 0x3F], by decide⟩

end Sys2Proof
end

