-- ==== Sys2Proof/Machine/State.lean ====
section
/-!
DEFINITION. The machine's state (spec rules R20 to R31), the responses its ports hold, and its state right after reset.
-/

namespace Sys2Proof.Machine

/-- The status of a response, with its payload `info` (R290, D30). The numeric codes are `Status.code`. -/
inductive Status where
  | ok
  /-- DECODE of fewer than 48 bytes; carries `len` (R291). -/
  | tooShort (len : Nat)
  /-- DECODE or LOOKUP of a reserved opcode; carries it (R292). -/
  | unknownOpcode (op : BitVec 6)
  /-- DECODE of a SCSI Command with task attribute 5 to 7; carries it (R293). -/
  | invalidAttribute (attr : BitVec 3)
  /-- DECODE of a Task Management Request with function 0 or 9 to 127; carries it (R294). -/
  | unknownFunction (function : BitVec 7)
  /-- DECODE of a Login header with a stage of 2; carries the stage (R295). -/
  | invalidStage (stage : BitVec 2)
  /-- A field value out of its domain, on ENCODE or U24_ENCODE; carries nothing (R296). -/
  | rangeError
deriving DecidableEq, Repr

/-- The signals of a response port (R26). `none`, and an offset `out` does not list, is the spec's "no value": the
request did not produce the signal, or its status is not `Ok` (R298). -/
structure Response where
  status : Status
  hdrOut : Option (Header 24) := none
  ahsLength : Option (BitVec 8) := none
  dataLength : Option (BitVec 24) := none
  out : Memory := []
  r : Option (BitVec 32) := none
  entry : Option RegEntry := none
deriving DecidableEq, Repr

/-- A port pair. Its response signals are unspecified until its first response (R31), which is `none`. -/
structure Port where
  response : Option Response := none
deriving DecidableEq, Repr

/-- The build-time parameters (R7, R23); `N_PORTS` is the number of ports. -/
structure Params where
  inMax : Nat
  lenW : Nat
  tmfBit7 : Bool
  layout : Layout
deriving DecidableEq, Repr

/-- A request presented on a port and not answered yet. -/
structure Presented where
  port : Nat
  request : Request
deriving DecidableEq, Repr

/-- The state. `reg`, `params`, `inReset` and `ports` are the spec's; `pending` (the requests presented, in the order in
which they are answered) and `active` (the port being answered) are the model's own (notes/assumptions/3.md, 4.md). -/
structure State where
  reg : Registry
  params : Params
  inReset : Bool
  ports : List Port
  pending : List Presented
  active : Nat
deriving DecidableEq, Repr

/-- Why the model stops without a next state. -/
inductive Fault where
  /-- Raised by every meaning when the request stands on a port the block does not have (port number `N_PORTS` or
  above, R25), and by the port readers. Safe: the block has no such port. -/
  | noSuchPort (port : Nat)
  /-- Raised by the port readers, never by a step: the port has given no response yet (R31, U17). Safe. -/
  | noResponseYet (port : Nat)
  /-- Raised by the port readers, never by a step: the port's last response gives the signal no value (R298, U18). Safe. -/
  | signalNotValid (port : Nat)
deriving DecidableEq, Repr

/-- Why the model gives a request no meaning. -/
inductive Refusal where
  /-- Raised by a dispatch arm with no meaning yet; no arm has it now. Safe. -/
  | notModelled (mnemonic : String)
  /-- Raised by `step`: `cmd = 0b111` spells no operation, and the spec asks for a refusal (R81). Safe. -/
  | reservedCommand
  /-- Raised by FLAG_GET and FLAG_SET: `hi < lo` names no field, and the spec asks for a refusal (R102, R103). Safe. -/
  | noFlagField (hi lo : BitVec 3)
  /-- Raised by `step`: a request before the end of reset, which the spec asks to refuse (R322). Safe. -/
  | requestBeforeResetEnd
deriving DecidableEq, Repr

/-- What a meaning answers. -/
abbrev Result := Host.Outcome State Fault Refusal

/-- The machine right after reset (R31, R320, R321): the registry holds R231, the parameters their configured values, no
port has a response, and no request is presented. -/
def State.reset : State where
  reg := Registry.contents
  params :=
    { inMax := Config.inMaxExtra + 48, lenW := Config.lenWExtra + 6, tmfBit7 := Config.tmfBit7Default,
      layout := Layout.spec }
  inReset := false
  ports := List.replicate (Config.nPortsExtra + 1) {}
  pending := []
  active := 0

end Sys2Proof.Machine
end

