-- ==== Sys2Proof/Machine/Checks.lean ====
section
/-!
DEFINITION. The enumerated fields the spec validates, and the check arms of DECODE (spec rules R125, R129, R133, R255) and
the domain checks of ENCODE (R258). No other field is checked (D10).
-/

namespace Sys2Proof.Machine

/-- SCSI task attributes (R125). -/
inductive TaskAttribute where
  | untagged | simple | ordered | headOfQueue | aca
deriving DecidableEq, Repr

/-- Task management functions; the names are general knowledge and no rule depends on them (R129). -/
inductive TmfFunction where
  | abortTask | abortTaskSet | clearAca | clearTaskSet
  | logicalUnitReset | targetWarmReset | targetColdReset | taskReassign
deriving DecidableEq, Repr

/-- Login stages (R133). The sentinel -1 of the source is no wire value and is not one of them (R325). -/
inductive LoginStage where
  | security | operationalParams | fullFeature
deriving DecidableEq, Repr

/-- The enumerant of an attribute code; 5, 6 and 7 have none (R125). -/
def taskAttributeOf (code : BitVec 3) : Option TaskAttribute :=
  match code.toNat with
  | 0 => some .untagged
  | 1 => some .simple
  | 2 => some .ordered
  | 3 => some .headOfQueue
  | 4 => some .aca
  | _ => none

/-- The enumerant of a function code; 0 and 9 to 127 have none (R129). -/
def tmfFunctionOf (code : BitVec 7) : Option TmfFunction :=
  match code.toNat with
  | 1 => some .abortTask
  | 2 => some .abortTaskSet
  | 3 => some .clearAca
  | 4 => some .clearTaskSet
  | 5 => some .logicalUnitReset
  | 6 => some .targetWarmReset
  | 7 => some .targetColdReset
  | 8 => some .taskReassign
  | _ => none

/-- The enumerant of a stage code; 2 has none (R133). -/
def loginStageOf (code : BitVec 2) : Option LoginStage :=
  match code.toNat with
  | 0 => some .security
  | 1 => some .operationalParams
  | 3 => some .fullFeature
  | _ => none

/-- `VCHK_SCSI_CMD`: the attribute is `IN[1][2:0]` (R125). -/
def checkScsiCmd (b : Header48) : Option Status :=
  let attr := (readFlag (b.read 1) 2 0).setWidth 3
  if (taskAttributeOf attr).isNone then some (.invalidAttribute attr) else none

/-- `VCHK_TMF_REQ`: the function is `IN[1] & 0x7F` (R129). -/
def checkTmfReq (b : Header48) : Option Status :=
  let function := (readFlag (b.read 1) 6 0).setWidth 7
  if (tmfFunctionOf function).isNone then some (.unknownFunction function) else none

/-- `VCHK_LOGIN_REQ` and `VCHK_LOGIN_RSP`: the current stage `IN[1][3:2]` first, then the next stage `IN[1][1:0]`
(R133, R180, R297). -/
def checkLogin (b : Header48) : Option Status :=
  let csg := (readFlag (b.read 1) 3 2).setWidth 2
  let nsg := (readFlag (b.read 1) 1 0).setWidth 2
  if (loginStageOf csg).isNone then some (.invalidStage csg)
  else if (loginStageOf nsg).isNone then some (.invalidStage nsg)
  else none

/-- The check arm of a tag; exactly four tags have one (R254, R255). -/
def checkArm (t : Tag) (b : Header48) : Option Status :=
  match t with
  | .scsiCmd => checkScsiCmd b
  | .tmfReq => checkTmfReq b
  | .loginReq => checkLogin b
  | .loginRsp => checkLogin b
  | .nopOut | .textReq | .dataOut | .logoutReq | .snack | .nopIn | .scsiRsp | .tmfRsp | .textRsp | .dataIn
  | .logoutRsp | .r2t | .async | .reject => none

/-- Whether the integer that a header gives the field `f` passes a check. DESIGN CHOICE: where the build's LAYOUT gives the tag no
integer field of this name, which no table of the spec does, there is no value to check (notes/assumptions/11.md). -/
def numPasses (fields : Fields) (f : Field) (check : Nat → Bool) : Bool :=
  match numOf fields f with
  | some v => check v
  | none => true

/-- The domain check of a SCSI_CMD on ENCODE: `h.attr > 4` fails (R258). -/
def scsiCmdInDomain (fields : Fields) : Bool := numPasses fields .attr fun v => !decide (4 < v)

/-- The domain check of a TMF_REQ on ENCODE: `h.function < 1 or h.function > 8` fails (R258). -/
def tmfReqInDomain (fields : Fields) : Bool := numPasses fields .function fun v => !(decide (v < 1) || decide (8 < v))

/-- The domain check of a LOGIN_REQ or LOGIN_RSP on ENCODE: `h.csg = 2 or h.nsg = 2` fails (R258). -/
def loginInDomain (fields : Fields) : Bool :=
  numPasses fields .csg (fun v => !(v == 2)) && numPasses fields .nsg (fun v => !(v == 2))

/-- The domain check of a tag on ENCODE; exactly the four tags that DECODE checks have one (R258). -/
def domainArm (t : Tag) (fields : Fields) : Bool :=
  match t with
  | .scsiCmd => scsiCmdInDomain fields
  | .tmfReq => tmfReqInDomain fields
  | .loginReq => loginInDomain fields
  | .loginRsp => loginInDomain fields
  | .nopOut | .textReq | .dataOut | .logoutReq | .snack | .nopIn | .scsiRsp | .tmfRsp | .textRsp | .dataIn
  | .logoutRsp | .r2t | .async | .reject => true

end Sys2Proof.Machine
end

