-- ==== Sys2Proof/Machine/Ops.lean ====
section
/-!
DEFINITION. The operations every meaning shares: responses and their delivery (an error is a response, spec rule R298), the
common steps of DECODE (R250 to R256) and of ENCODE (R257 to R260), reset (R320 to R322), and reading a port.
-/

namespace Sys2Proof.Machine

/-- The numeric status code (R290, D6). Code 7 is never produced. -/
def Status.code : Status → BitVec 3
  | .ok => 0
  | .tooShort _ => 1
  | .unknownOpcode _ => 2
  | .invalidAttribute _ => 3
  | .unknownFunction _ => 4
  | .invalidStage _ => 5
  | .rangeError => 6

/-- An error response: `status` and its payload, and no other signal (R298). -/
def Response.error (st : Status) : Response :=
  { status := st }

/-- The response of a DECODE that succeeds: the header, and the residual pair, which equals the header's own
`ahs_length` and `data_length` (R256). -/
def Response.ofHeader (h : Header 24) : Response :=
  { status := .ok, hdrOut := some h, ahsLength := some h.common.ahsLength, dataLength := some h.common.dataLength }

/-- The response of a request that produces output bytes, from offset 0 on (R26). -/
def Response.ofBytes (bs : List Byte) : Response :=
  { status := .ok, out := Memory.ofBytes bs }

/-- The response of a request that produces an integer (R26). -/
def Response.ofInt (r : BitVec 32) : Response :=
  { status := .ok, r := some r }

/-- The response of a LOOKUP that succeeds (R26, R233). -/
def Response.ofEntry (e : RegEntry) : Response :=
  { status := .ok, entry := some e }

/-- `s` with the response `r` on the port being answered, in place of whatever the port held (R20, R24). -/
def State.withResponse (s : State) (r : Response) : State :=
  { s with ports := s.ports.set s.active { response := some r } }

/-- Ends a transaction: the response, an error or not, goes to the port being answered, and nothing else changes
(R20, R298, R299). A port that does not exist has no transaction. -/
def State.deliver (s : State) (r : Response) : Result :=
  match s.ports[s.active]? with
  | some _ => .next (s.withResponse r)
  | none => .fault (.noSuchPort s.active)

/-- The layout table of a tag in this build (R7, R72). -/
def State.rows (s : State) (t : Tag) : List Row :=
  s.params.layout.rows t

/-- The common part of a header on the wire, read the same way whatever the tag (R253). -/
def readCommon (b : Header48) : Common 24 where
  retry := (b.read 0).getLsbD 7
  immediate := (b.read 0).getLsbD 6
  ahsLength := BitVec.ofNat 8 (memRead b 4 1)
  dataLength := (u24Unpack (b.read 5) (b.read 6) (b.read 7)).setWidth 24
  itt := BitVec.ofNat 32 (memRead b 16 4)

/-- DECODE from step 2 on, with the arm of tag `t` (R250): the registry entry of the masked opcode must be valid (R252); then
the tag's check (R255); then the header, whose variant fields are the tag's structural decode over the build's rows (R72,
R254), and its residual (R256). A failing check delivers none of the fields read (R298). -/
def decodeArm (s : State) (t : Tag) (b : Header48) : Response :=
  if (s.reg.entry (opcodeOf b)).valid = false then .error (.unknownOpcode (opcodeOf b))
  else
    match checkArm t b with
    | some st => .error st
    | none => .ofHeader ⟨readCommon b, t.code, readFields (s.rows t) b⟩

/-- What ENCODE writes to byte 1 besides the fields: `P_TMF_BIT7` in bit 7 of a Task Management Request (R130, D9). -/
def fixedFlags (tmfBit7 : Bool) (t : Tag) : Byte :=
  if t = .tmfReq then writeFlag 0 7 7 ((BitVec.ofBool tmfBit7).setWidth 8) else 0

/-- The zeroed output buffer with byte 0, the common fields and the fixed flags written (R257, R259, R260, R130). -/
def writeCommon (tmfBit7 : Bool) (t : Tag) (c : Common 32) : Header48 :=
  let out := (Bytes.zero 48).put 0 (byteZero c.retry c.immediate t.code)
  let out := out.put 1 (fixedFlags tmfBit7 t)
  let out := memWrite out 4 1 c.ahsLength.toNat
  let out := memWrite out 5 3 c.dataLength.toNat
  memWrite out 16 4 c.itt.toNat

/-- ENCODE with the arm of tag `t` (R257): the domain checks of R258, all before any byte is written, then the common fields,
then the tag's arm over the build's rows (R73, R261). The variant fields must be those of the rows, each with a value of its
row's kind; a value that no port of the build carries, and one above 0xFFFFFF in a `u24` row (R101), is out of its domain
(notes/assumptions/10.md). -/
def encodeArm (s : State) (t : Tag) (c : Common 32) (fields : Fields) : Response :=
  if (s.reg.entry t.code).valid = false then .error .rangeError
  else if 0xFFFFFF < c.dataLength.toNat then .error .rangeError
  else if fieldsFit (s.rows t) fields = false then .error .rangeError
  else if domainArm t fields = false then .error .rangeError
  else .ofBytes (writeFields (s.rows t) fields (writeCommon s.params.tmfBit7 t c)).data

/-- The environment asserts reset. No request is answered until it ends (R322). DESIGN CHOICE: the spec gives the response
signals only their value after reset (R31, R321), not what they hold between its beginning and its end; here every port
keeps its earlier response, readable, until `State.endReset` clears it (notes/assumptions/13.md). -/
def State.beginReset (s : State) : State :=
  { s with inReset := true }

/-- The end of reset: the registry holds R231, no port has a response, the parameters stay (R31, R320, R321). A request
presented before the end of reset has no defined response (R322), so none is left to answer (notes/assumptions/13.md). -/
def State.endReset (s : State) : State :=
  { s with reg := Registry.contents, ports := s.ports.map fun _ => {}, pending := [], inReset := false }

/-- The last response of a port; reading a port that has given none is a fault of the model (R31, U17). -/
def State.readResponse (s : State) (p : Nat) : Except Fault Response :=
  match s.ports[p]? with
  | none => .error (.noSuchPort p)
  | some port =>
    match port.response with
    | none => .error (.noResponseYet p)
    | some r => .ok r

/-- A signal of a port's last response, which has a value only where the response produced it (R26, R298, U18). -/
def State.readSignal {α : Type} (s : State) (p : Nat) (signal : Response → Option α) : Except Fault α :=
  match s.readResponse p with
  | .error f => .error f
  | .ok r =>
    match signal r with
    | none => .error (.signalNotValid p)
    | some v => .ok v

/-- The status of port `p` with its payload `info` (R290). -/
def State.readStatus (s : State) (p : Nat) : Except Fault Status := s.readSignal p fun r => some r.status

/-- The 3-bit `status` signal of port `p`: the code of the status (R26, R290). -/
def State.readStatusCode (s : State) (p : Nat) : Except Fault (BitVec 3) := s.readSignal p fun r => some r.status.code

/-- `hdr_out` of port `p`. -/
def State.readHeader (s : State) (p : Nat) : Except Fault (Header 24) := s.readSignal p (·.hdrOut)

/-- The residual `ahs_length` of port `p`. -/
def State.readAhsLength (s : State) (p : Nat) : Except Fault (BitVec 8) := s.readSignal p (·.ahsLength)

/-- The residual `data_length` of port `p`. -/
def State.readDataLength (s : State) (p : Nat) : Except Fault (BitVec 24) := s.readSignal p (·.dataLength)

/-- `OUT[a]` of port `p`: the model's read of one byte. -/
def State.readOut (s : State) (p a : Nat) : Except Fault Byte := s.readSignal p (·.out.read a)

/-- `r` of port `p`. -/
def State.readInt (s : State) (p : Nat) : Except Fault (BitVec 32) := s.readSignal p (·.r)

/-- `entry` of port `p`. -/
def State.readEntry (s : State) (p : Nat) : Except Fault RegEntry := s.readSignal p (·.entry)

end Sys2Proof.Machine
end

