-- ==== Sys2Proof/Machine/FieldCodec.lean ====
section
/-!
DEFINITION. The Field Codec's four requests: U24_DECODE, U24_ENCODE, FLAG_GET, FLAG_SET (40_field_codec.md).
-/

namespace Sys2Proof.Machine

/-- U24_DECODE (R100): `len` is not read, and there is no error. -/
def execU24Decode (b : Bytes 3) (s : State) : Result :=
  s.deliver (.ofInt (u24Unpack (b.read 0) (b.read 1) (b.read 2)))

/-- U24_ENCODE (R101): RangeError exactly when `v > 0xFFFFFF`, never a truncation. -/
def execU24Encode (v : BitVec 32) (s : State) : Result :=
  match u24Pack v with
  | some bs => s.deliver (.ofBytes bs.data)
  | none => s.deliver (.error .rangeError)

/-- FLAG_GET (R102); `hi < lo` names no field and is refused. -/
def execFlagGet (b : Byte) (hi lo : BitVec 3) (s : State) : Result :=
  if hi < lo then .refused (.noFlagField hi lo)
  else s.deliver (.ofInt (readFlag b hi.toNat lo.toNat))

/-- FLAG_SET (R103): the low 8 bits of `v` are used; `hi < lo` names no field and is refused. -/
def execFlagSet (b : Byte) (hi lo : BitVec 3) (v : BitVec 32) (s : State) : Result :=
  if hi < lo then .refused (.noFlagField hi lo)
  else s.deliver (.ofBytes [writeFlag b hi.toNat lo.toNat (v.setWidth 8)])

end Sys2Proof.Machine
end

