-- ==== Sys2Proof/Machine/Lookup.lean ====
section
/-!
DEFINITION. The Opcode Registry's request: LOOKUP (43_registry.md).
-/

namespace Sys2Proof.Machine

/-- LOOKUP (R233): the entry, or UnknownOpcode where it is not valid. -/
def execLookup (op6 : BitVec 6) (s : State) : Result :=
  if (s.reg.entry op6).valid = false then s.deliver (.error (.unknownOpcode op6))
  else s.deliver (.ofEntry (s.reg.entry op6))

end Sys2Proof.Machine
end

