-- ==== Sys2Proof/Machine/Initiator.lean ====
section
/-!
DEFINITION. The meanings of the rows of the eight variants the initiator sends (41_initiator_variants.md).
Each runs the tag's arm of Machine/Ops.lean, over the rows that the build's LAYOUT gives the tag.
-/

namespace Sys2Proof.Machine

/-- NOP_OUT: DECODE (R121) or ENCODE (R122) of its header, whose default table is R120. -/
def execNopOut (x : Xfer) (s : State) : Result :=
  match x with
  | .wire b => s.deliver (decodeArm s .nopOut b)
  | .typed c fields => s.deliver (encodeArm s .nopOut c fields)

/-- SCSI_CMD: DECODE (R124, R125) or ENCODE (R126) of its header, whose default table is R123. -/
def execScsiCmd (x : Xfer) (s : State) : Result :=
  match x with
  | .wire b => s.deliver (decodeArm s .scsiCmd b)
  | .typed c fields => s.deliver (encodeArm s .scsiCmd c fields)

/-- TMF_REQ: DECODE (R128, R129) or ENCODE (R130) of its header, whose default table is R127. -/
def execTmfReq (x : Xfer) (s : State) : Result :=
  match x with
  | .wire b => s.deliver (decodeArm s .tmfReq b)
  | .typed c fields => s.deliver (encodeArm s .tmfReq c fields)

/-- LOGIN_REQ: DECODE (R132, R133) or ENCODE (R134) of its header, whose default table is R131. -/
def execLoginReq (x : Xfer) (s : State) : Result :=
  match x with
  | .wire b => s.deliver (decodeArm s .loginReq b)
  | .typed c fields => s.deliver (encodeArm s .loginReq c fields)

/-- TEXT_REQ: DECODE (R136) or ENCODE (R137) of its header, whose default table is R135. -/
def execTextReq (x : Xfer) (s : State) : Result :=
  match x with
  | .wire b => s.deliver (decodeArm s .textReq b)
  | .typed c fields => s.deliver (encodeArm s .textReq c fields)

/-- DATA_OUT: DECODE (R139) or ENCODE (R140) of its header, whose default table is R138. -/
def execDataOut (x : Xfer) (s : State) : Result :=
  match x with
  | .wire b => s.deliver (decodeArm s .dataOut b)
  | .typed c fields => s.deliver (encodeArm s .dataOut c fields)

/-- LOGOUT_REQ: DECODE (R142) or ENCODE (R143) of its header, whose default table is R141. -/
def execLogoutReq (x : Xfer) (s : State) : Result :=
  match x with
  | .wire b => s.deliver (decodeArm s .logoutReq b)
  | .typed c fields => s.deliver (encodeArm s .logoutReq c fields)

/-- SNACK: DECODE (R145) or ENCODE (R146) of its header, whose default table is R144. -/
def execSnack (x : Xfer) (s : State) : Result :=
  match x with
  | .wire b => s.deliver (decodeArm s .snack b)
  | .typed c fields => s.deliver (encodeArm s .snack c fields)

end Sys2Proof.Machine
end

