-- ==== Sys2Proof/Machine/Target.lean ====
section
/-!
DEFINITION. The meanings of the rows of the ten variants the target sends (42_target_variants.md).
Each runs the tag's arm of Machine/Ops.lean, over the rows that the build's LAYOUT gives the tag.
-/

namespace Sys2Proof.Machine

/-- NOP_IN: DECODE (R171) or ENCODE (R172) of its header, whose default table is R170. -/
def execNopIn (x : Xfer) (s : State) : Result :=
  match x with
  | .wire b => s.deliver (decodeArm s .nopIn b)
  | .typed c fields => s.deliver (encodeArm s .nopIn c fields)

/-- SCSI_RSP: DECODE (R174) or ENCODE (R175) of its header, whose default table is R173. -/
def execScsiRsp (x : Xfer) (s : State) : Result :=
  match x with
  | .wire b => s.deliver (decodeArm s .scsiRsp b)
  | .typed c fields => s.deliver (encodeArm s .scsiRsp c fields)

/-- TMF_RSP: DECODE (R177) or ENCODE (R178) of its header, whose default table is R176. -/
def execTmfRsp (x : Xfer) (s : State) : Result :=
  match x with
  | .wire b => s.deliver (decodeArm s .tmfRsp b)
  | .typed c fields => s.deliver (encodeArm s .tmfRsp c fields)

/-- LOGIN_RSP: DECODE (R180, R133) or ENCODE (R181) of its header, whose default table is R179. -/
def execLoginRsp (x : Xfer) (s : State) : Result :=
  match x with
  | .wire b => s.deliver (decodeArm s .loginRsp b)
  | .typed c fields => s.deliver (encodeArm s .loginRsp c fields)

/-- TEXT_RSP: DECODE (R183) or ENCODE (R184) of its header, whose default table is R182. -/
def execTextRsp (x : Xfer) (s : State) : Result :=
  match x with
  | .wire b => s.deliver (decodeArm s .textRsp b)
  | .typed c fields => s.deliver (encodeArm s .textRsp c fields)

/-- DATA_IN: DECODE (R186) or ENCODE (R187) of its header, whose default table is R185. -/
def execDataIn (x : Xfer) (s : State) : Result :=
  match x with
  | .wire b => s.deliver (decodeArm s .dataIn b)
  | .typed c fields => s.deliver (encodeArm s .dataIn c fields)

/-- LOGOUT_RSP: DECODE (R189) or ENCODE (R190) of its header, whose default table is R188. -/
def execLogoutRsp (x : Xfer) (s : State) : Result :=
  match x with
  | .wire b => s.deliver (decodeArm s .logoutRsp b)
  | .typed c fields => s.deliver (encodeArm s .logoutRsp c fields)

/-- R2T: DECODE (R192) or ENCODE (R193) of its header, whose default table is R191. -/
def execR2t (x : Xfer) (s : State) : Result :=
  match x with
  | .wire b => s.deliver (decodeArm s .r2t b)
  | .typed c fields => s.deliver (encodeArm s .r2t c fields)

/-- ASYNC: DECODE (R195) or ENCODE (R196) of its header, whose default table is R194. -/
def execAsync (x : Xfer) (s : State) : Result :=
  match x with
  | .wire b => s.deliver (decodeArm s .async b)
  | .typed c fields => s.deliver (encodeArm s .async c fields)

/-- REJECT: DECODE (R198) or ENCODE (R199) of its header, whose default table is R197. -/
def execReject (x : Xfer) (s : State) : Result :=
  match x with
  | .wire b => s.deliver (decodeArm s .reject b)
  | .typed c fields => s.deliver (encodeArm s .reject c fields)

end Sys2Proof.Machine
end

