-- ==== Sys2Proof/Machine/PduCodec.lean ====
section
/-!
DEFINITION. The PDU codec: the opcode multiplexer (spec rule R254), DECODE (R250) and ENCODE (R257) for every header.
-/

namespace Sys2Proof.Machine

/-- What DECODE answers (R250): the length first (R251), then the registry (R252), then `dispatch h.tag`: exactly
one arm, by the tag of the entry (R254). -/
def decodeResponse (s : State) (len : Nat) (b : Header48) : Response :=
  if len < 48 then .error (.tooShort len)
  else if (s.reg.entry (opcodeOf b)).valid = false then .error (.unknownOpcode (opcodeOf b))
  else
    match Tag.ofCode (s.reg.entry (opcodeOf b)).tag with
    | some t => decodeArm s t b
    | none => .error (.unknownOpcode (opcodeOf b))

/-- DECODE (R250). -/
def execDecode (len : Nat) (b : Header48) (s : State) : Result :=
  s.deliver (decodeResponse s len b)

/-- What ENCODE answers (R257): the arm of the header's tag (R261). A tag that is not registered fails with RangeError (R76,
R258, D12). -/
def encodeResponse (s : State) (h : Header 32) : Response :=
  match Tag.ofCode h.tag with
  | some t => encodeArm s t h.common h.fields
  | none => .error .rangeError

/-- ENCODE (R257). -/
def execEncode (h : Header 32) (s : State) : Result :=
  s.deliver (encodeResponse s h)

end Sys2Proof.Machine
end

