-- ==== Sys2Proof/Machine/Dispatch.lean ====
section
/-!
DEFINITION. One arm per instruction, each one call of its meaning.
-/

namespace Sys2Proof.Machine

def exec (i : Instr) (s : State) : Host.Outcome State Fault Refusal :=
  match i with
  | .nopOut x => Sys2Proof.Machine.execNopOut x s
  | .scsiCmd x => Sys2Proof.Machine.execScsiCmd x s
  | .tmfReq x => Sys2Proof.Machine.execTmfReq x s
  | .loginReq x => Sys2Proof.Machine.execLoginReq x s
  | .textReq x => Sys2Proof.Machine.execTextReq x s
  | .dataOut x => Sys2Proof.Machine.execDataOut x s
  | .logoutReq x => Sys2Proof.Machine.execLogoutReq x s
  | .snack x => Sys2Proof.Machine.execSnack x s
  | .nopIn x => Sys2Proof.Machine.execNopIn x s
  | .scsiRsp x => Sys2Proof.Machine.execScsiRsp x s
  | .tmfRsp x => Sys2Proof.Machine.execTmfRsp x s
  | .loginRsp x => Sys2Proof.Machine.execLoginRsp x s
  | .textRsp x => Sys2Proof.Machine.execTextRsp x s
  | .dataIn x => Sys2Proof.Machine.execDataIn x s
  | .logoutRsp x => Sys2Proof.Machine.execLogoutRsp x s
  | .r2t x => Sys2Proof.Machine.execR2t x s
  | .async x => Sys2Proof.Machine.execAsync x s
  | .reject x => Sys2Proof.Machine.execReject x s
  | .decode len b => Sys2Proof.Machine.execDecode len b s
  | .encode h => Sys2Proof.Machine.execEncode h s
  | .u24Decode b => Sys2Proof.Machine.execU24Decode b s
  | .u24Encode v => Sys2Proof.Machine.execU24Encode v s
  | .flagGet b hi lo => Sys2Proof.Machine.execFlagGet b hi lo s
  | .flagSet b hi lo v => Sys2Proof.Machine.execFlagSet b hi lo v s
  | .lookup op6 => Sys2Proof.Machine.execLookup op6 s

end Sys2Proof.Machine
end

