-- ==== Sys2Proof/Machine/Step.lean ====
section
/-!
DEFINITION. One transaction (spec rules R3, R50, R328), and placing a request for the next one.
-/

namespace Sys2Proof.Machine

/-- Answers the oldest request presented, on its port; an idle block stays as it is (R301). A request before the end of
reset is refused (R322), and so is a reserved command (R81). DESIGN CHOICE: the spec says only that a refused request gets no
response; here a refusal, like a fault, ends the whole run, and the requests still pending on other ports stay unanswered
(notes/assumptions/19.md). DESIGN CHOICE: the port's number is not looked at before the request runs, so where the block has no such
port, a request before the end of reset and a reserved command are refused as on any port, and the fault `noSuchPort` comes only
from a meaning (notes/assumptions/14.md). -/
def step (s : State) : Host.Outcome State Fault Refusal :=
  match s.pending with
  | [] => .next s
  | p :: rest =>
    if s.inReset then .refused .requestBeforeResetEnd
    else
      match decode p.request with
      | .error .reservedCommand => .refused .reservedCommand
      | .ok i => exec i { s with pending := rest, active := p.port }

/-- `s` with the request of a table word presented on port 0 ahead of every other, after the end of reset, so that the
next step runs it (notes/assumptions/2.md, 3.md). DESIGN CHOICE: where reset has not ended in `s`, it makes `inReset` false and
changes nothing else of the reset: unlike after `State.endReset`, requests pending from that time stay and are answered later, and
the ports keep their earlier responses, readable; R322 and R31 do not say so (notes/assumptions/3.md, 13.md). -/
def State.withFetchWord (s : State) (nbits w : Nat) : State :=
  { s with pending := ⟨0, requestOfWord s.params.layout nbits w⟩ :: s.pending, inReset := false }

end Sys2Proof.Machine
end

