-- ==== Sys2Proof/Machine/Variants.lean ====
section
/-!
DEFINITION. The variant part of a header in a build with the default `LAYOUT`, variant by variant, as a record (spec rule R28):
the fields with the widths that the layout rule gives them, and the header fields a record stands for. A field left out is 0
(R82). The machine works on the rows of the build's `LAYOUT`; these records are words for the statements and the tests.
-/

namespace Sys2Proof

/-- The variant part of a NOP_OUT header (NOP-Out; R120). -/
structure NopOutFields where
  final : Bool := false
  lun : Bytes 8 := Bytes.zero 8
  ttt : BitVec 32 := 0
  cmdsn : BitVec 32 := 0
  expStatsn : BitVec 32 := 0
deriving DecidableEq, Repr

/-- The header fields of the record, in the order of the rows of R120. -/
def NopOutFields.fields (v : NopOutFields) : Fields :=
  [(.final, .num v.final.toNat), (.lun, .bytes v.lun.data), (.ttt, .num v.ttt.toNat), (.cmdsn, .num v.cmdsn.toNat),
   (.expStatsn, .num v.expStatsn.toNat)]

/-- The variant part of a SCSI_CMD header (SCSI Command; R123). -/
structure ScsiCmdFields where
  final : Bool := false
  read : Bool := false
  write : Bool := false
  attr : BitVec 3 := 0
  lun : Bytes 8 := Bytes.zero 8
  expXferLength : BitVec 32 := 0
  cmdsn : BitVec 32 := 0
  expStatsn : BitVec 32 := 0
  cdb : Bytes 16 := Bytes.zero 16
deriving DecidableEq, Repr

/-- The header fields of the record, in the order of the rows of R123. -/
def ScsiCmdFields.fields (v : ScsiCmdFields) : Fields :=
  [(.final, .num v.final.toNat), (.read, .num v.read.toNat), (.write, .num v.write.toNat), (.attr, .num v.attr.toNat),
   (.lun, .bytes v.lun.data), (.expXferLength, .num v.expXferLength.toNat), (.cmdsn, .num v.cmdsn.toNat),
   (.expStatsn, .num v.expStatsn.toNat), (.cdb, .bytes v.cdb.data)]

/-- The variant part of a TMF_REQ header (Task Management Function Request; R127). -/
structure TmfReqFields where
  function : BitVec 7 := 0
  lun : Bytes 8 := Bytes.zero 8
  rtt : BitVec 32 := 0
  cmdsn : BitVec 32 := 0
  expStatsn : BitVec 32 := 0
  refcmdsn : BitVec 32 := 0
  expDatasn : BitVec 32 := 0
deriving DecidableEq, Repr

/-- The header fields of the record, in the order of the rows of R127. -/
def TmfReqFields.fields (v : TmfReqFields) : Fields :=
  [(.function, .num v.function.toNat), (.lun, .bytes v.lun.data), (.rtt, .num v.rtt.toNat),
   (.cmdsn, .num v.cmdsn.toNat), (.expStatsn, .num v.expStatsn.toNat), (.refcmdsn, .num v.refcmdsn.toNat),
   (.expDatasn, .num v.expDatasn.toNat)]

/-- The variant part of a LOGIN_REQ header (Login Request; R131). -/
structure LoginReqFields where
  transit : Bool := false
  cont : Bool := false
  csg : BitVec 2 := 0
  nsg : BitVec 2 := 0
  maxVersion : BitVec 8 := 0
  minVersion : BitVec 8 := 0
  isid : Bytes 6 := Bytes.zero 6
  tsih : BitVec 16 := 0
  cid : BitVec 16 := 0
  cmdsn : BitVec 32 := 0
  expStatsn : BitVec 32 := 0
deriving DecidableEq, Repr

/-- The header fields of the record, in the order of the rows of R131. -/
def LoginReqFields.fields (v : LoginReqFields) : Fields :=
  [(.transit, .num v.transit.toNat), (.cont, .num v.cont.toNat), (.csg, .num v.csg.toNat), (.nsg, .num v.nsg.toNat),
   (.maxVersion, .num v.maxVersion.toNat), (.minVersion, .num v.minVersion.toNat), (.isid, .bytes v.isid.data),
   (.tsih, .num v.tsih.toNat), (.cid, .num v.cid.toNat), (.cmdsn, .num v.cmdsn.toNat),
   (.expStatsn, .num v.expStatsn.toNat)]

/-- The variant part of a TEXT_REQ header (Text Request; R135). -/
structure TextReqFields where
  final : Bool := false
  cont : Bool := false
  ttt : BitVec 32 := 0
  cmdsn : BitVec 32 := 0
  expStatsn : BitVec 32 := 0
deriving DecidableEq, Repr

/-- The header fields of the record, in the order of the rows of R135. -/
def TextReqFields.fields (v : TextReqFields) : Fields :=
  [(.final, .num v.final.toNat), (.cont, .num v.cont.toNat), (.ttt, .num v.ttt.toNat), (.cmdsn, .num v.cmdsn.toNat),
   (.expStatsn, .num v.expStatsn.toNat)]

/-- The variant part of a DATA_OUT header (SCSI Data-Out; R138). -/
structure DataOutFields where
  final : Bool := false
  lun : Bytes 8 := Bytes.zero 8
  ttt : BitVec 32 := 0
  expStatsn : BitVec 32 := 0
  datasn : BitVec 32 := 0
  bufferOffset : BitVec 32 := 0
deriving DecidableEq, Repr

/-- The header fields of the record, in the order of the rows of R138. -/
def DataOutFields.fields (v : DataOutFields) : Fields :=
  [(.final, .num v.final.toNat), (.lun, .bytes v.lun.data), (.ttt, .num v.ttt.toNat),
   (.expStatsn, .num v.expStatsn.toNat), (.datasn, .num v.datasn.toNat), (.bufferOffset, .num v.bufferOffset.toNat)]

/-- The variant part of a LOGOUT_REQ header (Logout Request; R141). -/
structure LogoutReqFields where
  final : Bool := false
  reason : BitVec 7 := 0
  cid : BitVec 16 := 0
  cmdsn : BitVec 32 := 0
  expStatsn : BitVec 32 := 0
deriving DecidableEq, Repr

/-- The header fields of the record, in the order of the rows of R141. -/
def LogoutReqFields.fields (v : LogoutReqFields) : Fields :=
  [(.final, .num v.final.toNat), (.reason, .num v.reason.toNat), (.cid, .num v.cid.toNat), (.cmdsn, .num v.cmdsn.toNat),
   (.expStatsn, .num v.expStatsn.toNat)]

/-- The variant part of a SNACK header (SNACK Request; R144). -/
structure SnackFields where
  final : Bool := false
  snackType : BitVec 4 := 0
  ttt : BitVec 32 := 0
  expStatsn : BitVec 32 := 0
  begrun : BitVec 32 := 0
  runlength : BitVec 32 := 0
deriving DecidableEq, Repr

/-- The header fields of the record, in the order of the rows of R144. -/
def SnackFields.fields (v : SnackFields) : Fields :=
  [(.final, .num v.final.toNat), (.snackType, .num v.snackType.toNat), (.ttt, .num v.ttt.toNat),
   (.expStatsn, .num v.expStatsn.toNat), (.begrun, .num v.begrun.toNat), (.runlength, .num v.runlength.toNat)]

/-- The variant part of a NOP_IN header (NOP-In; R170). -/
structure NopInFields where
  final : Bool := false
  lun : Bytes 8 := Bytes.zero 8
  ttt : BitVec 32 := 0
  statsn : BitVec 32 := 0
  expCmdsn : BitVec 32 := 0
  maxCmdsn : BitVec 32 := 0
deriving DecidableEq, Repr

/-- The header fields of the record, in the order of the rows of R170. -/
def NopInFields.fields (v : NopInFields) : Fields :=
  [(.final, .num v.final.toNat), (.lun, .bytes v.lun.data), (.ttt, .num v.ttt.toNat), (.statsn, .num v.statsn.toNat),
   (.expCmdsn, .num v.expCmdsn.toNat), (.maxCmdsn, .num v.maxCmdsn.toNat)]

/-- The variant part of a SCSI_RSP header (SCSI Response; R173). -/
structure ScsiRspFields where
  final : Bool := false
  bidiOverflow : Bool := false
  bidiUnderflow : Bool := false
  overflow : Bool := false
  underflow : Bool := false
  response : BitVec 8 := 0
  cmdStatus : BitVec 8 := 0
  snackTag : BitVec 32 := 0
  statsn : BitVec 32 := 0
  expCmdsn : BitVec 32 := 0
  maxCmdsn : BitVec 32 := 0
  expDatasn : BitVec 32 := 0
  biResidualCount : BitVec 32 := 0
  residualCount : BitVec 32 := 0
deriving DecidableEq, Repr

/-- The header fields of the record, in the order of the rows of R173. -/
def ScsiRspFields.fields (v : ScsiRspFields) : Fields :=
  [(.final, .num v.final.toNat), (.bidiOverflow, .num v.bidiOverflow.toNat),
   (.bidiUnderflow, .num v.bidiUnderflow.toNat), (.overflow, .num v.overflow.toNat),
   (.underflow, .num v.underflow.toNat), (.response, .num v.response.toNat), (.cmdStatus, .num v.cmdStatus.toNat),
   (.snackTag, .num v.snackTag.toNat), (.statsn, .num v.statsn.toNat), (.expCmdsn, .num v.expCmdsn.toNat),
   (.maxCmdsn, .num v.maxCmdsn.toNat), (.expDatasn, .num v.expDatasn.toNat),
   (.biResidualCount, .num v.biResidualCount.toNat), (.residualCount, .num v.residualCount.toNat)]

/-- The variant part of a TMF_RSP header (Task Management Function Response; R176). -/
structure TmfRspFields where
  final : Bool := false
  response : BitVec 8 := 0
  statsn : BitVec 32 := 0
  expCmdsn : BitVec 32 := 0
  maxCmdsn : BitVec 32 := 0
deriving DecidableEq, Repr

/-- The header fields of the record, in the order of the rows of R176. -/
def TmfRspFields.fields (v : TmfRspFields) : Fields :=
  [(.final, .num v.final.toNat), (.response, .num v.response.toNat), (.statsn, .num v.statsn.toNat),
   (.expCmdsn, .num v.expCmdsn.toNat), (.maxCmdsn, .num v.maxCmdsn.toNat)]

/-- The variant part of a LOGIN_RSP header (Login Response; R179). -/
structure LoginRspFields where
  transit : Bool := false
  cont : Bool := false
  csg : BitVec 2 := 0
  nsg : BitVec 2 := 0
  maxVersion : BitVec 8 := 0
  activeVersion : BitVec 8 := 0
  isid : Bytes 6 := Bytes.zero 6
  tsih : BitVec 16 := 0
  statsn : BitVec 32 := 0
  expCmdsn : BitVec 32 := 0
  maxCmdsn : BitVec 32 := 0
  statusClass : BitVec 8 := 0
  statusDetail : BitVec 8 := 0
deriving DecidableEq, Repr

/-- The header fields of the record, in the order of the rows of R179. -/
def LoginRspFields.fields (v : LoginRspFields) : Fields :=
  [(.transit, .num v.transit.toNat), (.cont, .num v.cont.toNat), (.csg, .num v.csg.toNat), (.nsg, .num v.nsg.toNat),
   (.maxVersion, .num v.maxVersion.toNat), (.activeVersion, .num v.activeVersion.toNat), (.isid, .bytes v.isid.data),
   (.tsih, .num v.tsih.toNat), (.statsn, .num v.statsn.toNat), (.expCmdsn, .num v.expCmdsn.toNat),
   (.maxCmdsn, .num v.maxCmdsn.toNat), (.statusClass, .num v.statusClass.toNat),
   (.statusDetail, .num v.statusDetail.toNat)]

/-- The variant part of a TEXT_RSP header (Text Response; R182). -/
structure TextRspFields where
  final : Bool := false
  cont : Bool := false
  ttt : BitVec 32 := 0
  statsn : BitVec 32 := 0
  expCmdsn : BitVec 32 := 0
  maxCmdsn : BitVec 32 := 0
deriving DecidableEq, Repr

/-- The header fields of the record, in the order of the rows of R182. -/
def TextRspFields.fields (v : TextRspFields) : Fields :=
  [(.final, .num v.final.toNat), (.cont, .num v.cont.toNat), (.ttt, .num v.ttt.toNat), (.statsn, .num v.statsn.toNat),
   (.expCmdsn, .num v.expCmdsn.toNat), (.maxCmdsn, .num v.maxCmdsn.toNat)]

/-- The variant part of a DATA_IN header (SCSI Data-In; R185). -/
structure DataInFields where
  final : Bool := false
  ack : Bool := false
  overflow : Bool := false
  underflow : Bool := false
  statusPresent : Bool := false
  cmdStatus : BitVec 8 := 0
  lun : Bytes 8 := Bytes.zero 8
  ttt : BitVec 32 := 0
  statsn : BitVec 32 := 0
  expCmdsn : BitVec 32 := 0
  maxCmdsn : BitVec 32 := 0
  datasn : BitVec 32 := 0
  bufferOffset : BitVec 32 := 0
  residualCount : BitVec 32 := 0
deriving DecidableEq, Repr

/-- The header fields of the record, in the order of the rows of R185. -/
def DataInFields.fields (v : DataInFields) : Fields :=
  [(.final, .num v.final.toNat), (.ack, .num v.ack.toNat), (.overflow, .num v.overflow.toNat),
   (.underflow, .num v.underflow.toNat), (.statusPresent, .num v.statusPresent.toNat),
   (.cmdStatus, .num v.cmdStatus.toNat), (.lun, .bytes v.lun.data), (.ttt, .num v.ttt.toNat),
   (.statsn, .num v.statsn.toNat), (.expCmdsn, .num v.expCmdsn.toNat), (.maxCmdsn, .num v.maxCmdsn.toNat),
   (.datasn, .num v.datasn.toNat), (.bufferOffset, .num v.bufferOffset.toNat),
   (.residualCount, .num v.residualCount.toNat)]

/-- The variant part of a LOGOUT_RSP header (Logout Response; R188). -/
structure LogoutRspFields where
  final : Bool := false
  response : BitVec 8 := 0
  statsn : BitVec 32 := 0
  expCmdsn : BitVec 32 := 0
  maxCmdsn : BitVec 32 := 0
  time2wait : BitVec 16 := 0
  time2retain : BitVec 16 := 0
deriving DecidableEq, Repr

/-- The header fields of the record, in the order of the rows of R188. -/
def LogoutRspFields.fields (v : LogoutRspFields) : Fields :=
  [(.final, .num v.final.toNat), (.response, .num v.response.toNat), (.statsn, .num v.statsn.toNat),
   (.expCmdsn, .num v.expCmdsn.toNat), (.maxCmdsn, .num v.maxCmdsn.toNat), (.time2wait, .num v.time2wait.toNat),
   (.time2retain, .num v.time2retain.toNat)]

/-- The variant part of a R2T header (Ready To Transfer; R191). -/
structure R2tFields where
  final : Bool := false
  lun : Bytes 8 := Bytes.zero 8
  ttt : BitVec 32 := 0
  statsn : BitVec 32 := 0
  expCmdsn : BitVec 32 := 0
  maxCmdsn : BitVec 32 := 0
  rttsn : BitVec 32 := 0
  dataOffset : BitVec 32 := 0
  desiredLength : BitVec 32 := 0
deriving DecidableEq, Repr

/-- The header fields of the record, in the order of the rows of R191. -/
def R2tFields.fields (v : R2tFields) : Fields :=
  [(.final, .num v.final.toNat), (.lun, .bytes v.lun.data), (.ttt, .num v.ttt.toNat), (.statsn, .num v.statsn.toNat),
   (.expCmdsn, .num v.expCmdsn.toNat), (.maxCmdsn, .num v.maxCmdsn.toNat), (.rttsn, .num v.rttsn.toNat),
   (.dataOffset, .num v.dataOffset.toNat), (.desiredLength, .num v.desiredLength.toNat)]

/-- The variant part of a ASYNC header (Asynchronous Message; R194). -/
structure AsyncFields where
  final : Bool := false
  lun : Bytes 8 := Bytes.zero 8
  statsn : BitVec 32 := 0
  expCmdsn : BitVec 32 := 0
  maxCmdsn : BitVec 32 := 0
  asyncEvent : BitVec 8 := 0
  asyncVcode : BitVec 8 := 0
  param1 : BitVec 16 := 0
  param2 : BitVec 16 := 0
  param3 : BitVec 16 := 0
deriving DecidableEq, Repr

/-- The header fields of the record, in the order of the rows of R194. -/
def AsyncFields.fields (v : AsyncFields) : Fields :=
  [(.final, .num v.final.toNat), (.lun, .bytes v.lun.data), (.statsn, .num v.statsn.toNat),
   (.expCmdsn, .num v.expCmdsn.toNat), (.maxCmdsn, .num v.maxCmdsn.toNat), (.asyncEvent, .num v.asyncEvent.toNat),
   (.asyncVcode, .num v.asyncVcode.toNat), (.param1, .num v.param1.toNat), (.param2, .num v.param2.toNat),
   (.param3, .num v.param3.toNat)]

/-- The variant part of a REJECT header (Reject; R197). -/
structure RejectFields where
  final : Bool := false
  reason : BitVec 8 := 0
  statsn : BitVec 32 := 0
  expCmdsn : BitVec 32 := 0
  maxCmdsn : BitVec 32 := 0
  datasn : BitVec 32 := 0
deriving DecidableEq, Repr

/-- The header fields of the record, in the order of the rows of R197. -/
def RejectFields.fields (v : RejectFields) : Fields :=
  [(.final, .num v.final.toNat), (.reason, .num v.reason.toNat), (.statsn, .num v.statsn.toNat),
   (.expCmdsn, .num v.expCmdsn.toNat), (.maxCmdsn, .num v.maxCmdsn.toNat), (.datasn, .num v.datasn.toNat)]

end Sys2Proof
end

