-- ==== Sys2Proof/Safety.lean ====
section
/-!
DEFINITION. What counts as a good state, and the words the statements use: the invariant, header values in their domains,
fields of a wire image written out by offset, and the reserved positions of every default layout. None of this is used by the
machine; the offsets and masks here are written down from the layout rules a second time.
-/

namespace Sys2Proof.Machine

/-- The build is the spec's own: the registry holds R231 and the layout is the default one. -/
abbrev State.built (s : State) : Prop :=
  s.reg = Registry.contents ∧ s.params.layout = Layout.spec

/-- The request being answered stands on a port the block has, in a build that is the spec's. -/
abbrev State.serving (s : State) : Prop :=
  s.built ∧ s.active < s.ports.length

/-- The registry holds R231, and the layout is one that the spec allows. -/
abbrev State.lawful (s : State) : Prop :=
  s.reg = Registry.contents ∧ s.params.layout.lawful

/-- The domains of R258 on the variant fields of a header of tag `t`. -/
abbrev fieldsInDomain (t : Tag) (fields : Fields) : Prop :=
  match t with
  | .scsiCmd => ∀ v, numOf fields .attr = some v → v ≤ 4
  | .tmfReq => ∀ v, numOf fields .function = some v → 1 ≤ v ∧ v ≤ 8
  | .loginReq | .loginRsp => ∀ v, numOf fields .csg = some v ∨ numOf fields .nsg = some v → v ≠ 2
  | .nopOut | .textReq | .dataOut | .logoutReq | .snack | .nopIn | .scsiRsp | .tmfRsp | .textRsp | .dataIn
  | .logoutRsp | .r2t | .async | .reject => True

/-- Variant fields that a header of tag `t` can have in a build: one value of the row's kind for each row of the tag's table
(R28, R70), and an enumerant the tag's check accepts (R255, R258). -/
abbrev variantOf (layout : Layout) (t : Tag) (fields : Fields) : Prop :=
  fieldsFit (layout.rows t) fields = true ∧ fieldsInDomain t fields

/-- A header value that ENCODE accepts in a build (R258). -/
abbrev headerInDomain (layout : Layout) (h : Header 32) : Prop :=
  h.common.dataLength.toNat ≤ 0xFFFFFF ∧ ∃ t : Tag, h.tag = t.code ∧ variantOf layout t h.fields

/-- The status DECODE gives a header of tag `t` by its byte 1 alone: the first check that fails, in the order of R297. -/
def checkStatus (t : Tag) (flags : Byte) : Status :=
  match t with
  | .scsiCmd => if 4 < flags.toNat % 8 then .invalidAttribute (BitVec.ofNat 3 flags.toNat) else .ok
  | .tmfReq =>
    if flags.toNat % 128 = 0 ∨ 8 < flags.toNat % 128 then .unknownFunction (BitVec.ofNat 7 flags.toNat) else .ok
  | .loginReq | .loginRsp => if flags.toNat / 4 % 4 = 2 ∨ flags.toNat % 4 = 2 then .invalidStage 2 else .ok
  | .nopOut | .textReq | .dataOut | .logoutReq | .snack | .nopIn | .scsiRsp | .tmfRsp | .textRsp | .dataIn
  | .logoutRsp | .r2t | .async | .reject => .ok

/-- Two statuses of one kind, whatever their payloads (R290). -/
abbrev Status.sameKind : Status → Status → Prop
  | .ok, .ok => True
  | .tooShort _, .tooShort _ => True
  | .unknownOpcode _, .unknownOpcode _ => True
  | .invalidAttribute _, .invalidAttribute _ => True
  | .unknownFunction _, .unknownFunction _ => True
  | .invalidStage _, .invalidStage _ => True
  | .rangeError, .rangeError => True
  | _, _ => False

/-- A status with a payload that its check can give (R290). -/
abbrev Status.justified : Status → Prop
  | .ok => True
  | .tooShort len => len < 48
  | .unknownOpcode op => Tag.ofCode op = none
  | .invalidAttribute attr => 4 < attr.toNat
  | .unknownFunction function => function.toNat = 0 ∨ 8 < function.toNat
  | .invalidStage stage => stage = 2
  | .rangeError => True

/-- A response a build can give: a status with its payload; no other signal with an error (R298); the residual pair of a header
equal to the header's (R256), its tag registered, its fields those of the tag's rows and in their domains (R28, R255); `OUT`
within its 48 offsets and canonical (R40); an entry that is valid, with the direction of its tag (R232, R233). -/
structure Response.wf (layout : Layout) (r : Response) : Prop where
  justified : r.status.justified
  errorAlone : r.status ≠ .ok → r = Response.error r.status
  residual : ∀ h, r.hdrOut = some h →
    r.ahsLength = some h.common.ahsLength ∧ r.dataLength = some h.common.dataLength
    ∧ ∃ t : Tag, h.tag = t.code ∧ variantOf layout t h.fields
  outCanonical : r.out.wf
  outInRange : ∀ c ∈ r.out, c.1 < 48
  entryValid : ∀ e, r.entry = some e → e.valid = true ∧ e.direction.bit = e.tag.extractLsb' 5 1

/-- The invariant every step keeps: the registry is the spec's, the parameters are in their domains (R7; LAYOUT any legal one), and
every response a port holds is one the build can give. -/
structure State.Inv (s : State) : Prop where
  lawful : s.lawful
  inMax : 48 ≤ s.params.inMax
  lenW : 6 ≤ s.params.lenW
  nPorts : 1 ≤ s.ports.length
  responses : ∀ port ∈ s.ports, ∀ r, port.response = some r → r.wf s.params.layout

/-- The 16-bit big-endian field at offset `o`. -/
abbrev halfAt (b : Header48) (o : Nat) : BitVec 16 :=
  b.read o ++ b.read (o + 1)

/-- The 32-bit big-endian field at offset `o`. -/
abbrev wordAt (b : Header48) (o : Nat) : BitVec 32 :=
  b.read o ++ b.read (o + 1) ++ b.read (o + 2) ++ b.read (o + 3)

/-- Bit `i` of byte 1. -/
abbrev flagAt (b : Header48) (i : Nat) : Bool :=
  (b.read 1).getLsbD i

/-- Bits `lo + w - 1` down to `lo` of byte 1. -/
abbrev flagsAt (b : Header48) (lo w : Nat) : BitVec w :=
  (b.read 1).extractLsb' lo w

/-- Eight bytes from offset `o`. -/
abbrev eightAt (b : Header48) (o : Nat) : Bytes 8 :=
  ⟨[b.read o, b.read (o + 1), b.read (o + 2), b.read (o + 3), b.read (o + 4), b.read (o + 5), b.read (o + 6),
    b.read (o + 7)], rfl⟩

/-- Six bytes from offset `o`. -/
abbrev sixAt (b : Header48) (o : Nat) : Bytes 6 :=
  ⟨[b.read o, b.read (o + 1), b.read (o + 2), b.read (o + 3), b.read (o + 4), b.read (o + 5)], rfl⟩

/-- Sixteen bytes from offset `o`. -/
abbrev sixteenAt (b : Header48) (o : Nat) : Bytes 16 :=
  ⟨(eightAt b o).data ++ (eightAt b (o + 8)).data, rfl⟩

/-- The common fields of a wire image (R253). -/
abbrev commonAt (b : Header48) : Common 24 where
  retry := (b.read 0).getLsbD 7
  immediate := (b.read 0).getLsbD 6
  ahsLength := b.read 4
  dataLength := b.read 5 ++ b.read 6 ++ b.read 7
  itt := wordAt b 16

/-- The two bytes of a 16-bit field, most significant first. -/
abbrev half (v : BitVec 16) : List Byte :=
  [v.extractLsb' 8 8, v.extractLsb' 0 8]

/-- The four bytes of a 32-bit field, most significant first. -/
abbrev word (v : BitVec 32) : List Byte :=
  [v.extractLsb' 24 8, v.extractLsb' 16 8, v.extractLsb' 8 8, v.extractLsb' 0 8]

/-- `n` reserved bytes. -/
abbrev zeros (n : Nat) : List Byte :=
  List.replicate n 0

/-- A flag at bit `i` of a byte that is otherwise 0. -/
abbrev flag (x : Bool) (i : Nat) : Byte :=
  if x then 1 <<< i else 0

/-- A field of `w` bits at bit `lo` of a byte that is otherwise 0. -/
abbrev flags {w : Nat} (v : BitVec w) (lo : Nat) : Byte :=
  v.setWidth 8 <<< lo

/-- Byte 0 (R259). -/
abbrev firstByte (c : Common 32) (opcode : Byte) : Byte :=
  flag c.retry 7 ||| flag c.immediate 6 ||| opcode

/-- Bytes 4 to 7: `ahs_length` and the 24-bit `data_length` (R260). -/
abbrev lengths (c : Common 32) : List Byte :=
  [c.ahsLength, c.dataLength.extractLsb' 16 8, c.dataLength.extractLsb' 8 8, c.dataLength.extractLsb' 0 8]

/-- A decoded header as an encode request: `data_length` widened to 32 bits (R27). -/
def widenHeader (h : Header 24) : Header 32 :=
  { common := { retry := h.common.retry, immediate := h.common.immediate, ahsLength := h.common.ahsLength,
                dataLength := h.common.dataLength.setWidth 32, itt := h.common.itt },
    tag := h.tag, fields := h.fields }

/-- How many bytes of `OUT`, from offset 0 on, a form of a PDU row can produce (R26, R40). -/
def xferOutWidth : Xfer → Nat
  | .wire _ => 0
  | .typed _ _ => 48

/-- How many bytes of `OUT`, from offset 0 on, an instruction can produce (R26, R40). -/
def outWidth : Instr → Nat
  | .nopOut x => xferOutWidth x
  | .scsiCmd x => xferOutWidth x
  | .tmfReq x => xferOutWidth x
  | .loginReq x => xferOutWidth x
  | .textReq x => xferOutWidth x
  | .dataOut x => xferOutWidth x
  | .logoutReq x => xferOutWidth x
  | .snack x => xferOutWidth x
  | .nopIn x => xferOutWidth x
  | .scsiRsp x => xferOutWidth x
  | .tmfRsp x => xferOutWidth x
  | .loginRsp x => xferOutWidth x
  | .textRsp x => xferOutWidth x
  | .dataIn x => xferOutWidth x
  | .logoutRsp x => xferOutWidth x
  | .r2t x => xferOutWidth x
  | .async x => xferOutWidth x
  | .reject x => xferOutWidth x
  | .decode _ _ => 0
  | .encode _ => 48
  | .u24Decode _ => 0
  | .u24Encode _ => 3
  | .flagGet _ _ _ => 0
  | .flagSet _ _ _ _ => 1
  | .lookup _ => 0

/-- The bits of byte 1 that a field of tag `t` names (the layout rules). -/
def namedFlags : Tag → Byte
  | .nopOut => 0x80
  | .scsiCmd => 0xE7
  | .tmfReq => 0x7F
  | .loginReq => 0xCF
  | .textReq => 0xC0
  | .dataOut => 0x80
  | .logoutReq => 0xFF
  | .snack => 0x8F
  | .nopIn => 0x80
  | .scsiRsp => 0x9E
  | .tmfRsp => 0x80
  | .loginRsp => 0xCF
  | .textRsp => 0xC0
  | .dataIn => 0xC7
  | .logoutRsp => 0x80
  | .r2t => 0x80
  | .async => 0x80
  | .reject => 0x80

/-- The reserved bytes of tag `t`, as ranges of offsets, first and last included (the layout rules). -/
def reservedRanges : Tag → List (Nat × Nat)
  | .nopOut => [(2, 3), (32, 47)]
  | .scsiCmd => [(2, 3)]
  | .tmfReq => [(2, 3), (40, 47)]
  | .loginReq => [(22, 23), (32, 47)]
  | .textReq => [(2, 3), (8, 15), (32, 47)]
  | .dataOut => [(2, 3), (24, 27), (32, 35), (44, 47)]
  | .logoutReq => [(2, 3), (8, 15), (22, 23), (32, 47)]
  | .snack => [(2, 3), (8, 15), (24, 27), (32, 39)]
  | .nopIn => [(2, 3), (36, 47)]
  | .scsiRsp => [(8, 15)]
  | .tmfRsp => [(3, 3), (8, 15), (20, 23), (36, 47)]
  | .loginRsp => [(20, 23), (38, 47)]
  | .textRsp => [(2, 3), (8, 15), (36, 47)]
  | .dataIn => [(2, 2)]
  | .logoutRsp => [(3, 3), (8, 15), (20, 23), (36, 39), (44, 47)]
  | .r2t => [(2, 3)]
  | .async => [(2, 3), (20, 23), (44, 47)]
  | .reject => [(3, 3), (8, 15), (20, 23), (40, 47)]

/-- The bits of byte `k` that a field of tag `t` in the default LAYOUT or of the common template names; the others are reserved
(R71). -/
def namedBits (t : Tag) (k : Nat) : Byte :=
  if k = 1 then namedFlags t
  else if (reservedRanges t).any fun p => p.1 ≤ k && k ≤ p.2 then 0
  else 0xFF

/-- Whether a field kind takes in bit `i` of byte `k` (R70). -/
def kindCovers (kind : Kind) (k i : Nat) : Bool :=
  match kind with
  | .bit o j => k == o && i == j
  | .sub o hi lo => k == o && lo ≤ i && i ≤ hi
  | .u8 o => k == o
  | .be16 o => o ≤ k && k < o + 2
  | .u24 o => o ≤ k && k < o + 3
  | .be32 o => o ≤ k && k < o + 4
  | .bytes o n => o ≤ k && k < o + n

/-- Whether bit `i` of byte `k` is named by the common template or by a row of a table; the other positions are reserved (R71). -/
def named (rows : List Row) (k i : Nat) : Bool :=
  (Layout.common ++ rows.map (·.kind)).any fun kind => kindCovers kind k i

/-- What ENCODE writes to bit `i` of byte `k` of a header of tag `t` where no field names it: 0, but for `P_TMF_BIT7` (R73, R130). -/
def unnamedBit (t : Tag) (tmfBit7 : Bool) (k i : Nat) : Bool :=
  t = .tmfReq && k = 1 && i = 7 && tmfBit7

end Sys2Proof.Machine
end

