-- ==== Sys2Proof/Certificates/Slice0/Obligations.lean ====
section
/-!
DEFINITION. The statements for the provers. Offsets, masks and byte images in them are written out from the spec's rules; the
words used (`wordAt`, `flag`, `named`, ...) are in Sys2Proof/Safety.lean. Every statement quantifies over the state, and so over
every value of the OPEN parameters. Where the positions of fields matter, the LAYOUT is any that the spec allows
(`Layout.lawful`); only the statements that write the offsets of one variant out ask for the default LAYOUT (`State.built`;
notes/assumptions/7.md).
-/

open Sys2Proof Sys2Proof.Machine

/-- R100: U24_DECODE answers the three bytes as one big-endian integer with 8 zero bits above it. -/
def Obligations.U24DecodeIsBigEndian : Prop :=
  ∀ (s : State) (b : Bytes 3), s.active < s.ports.length →
    exec (.u24Decode b) s = .next (s.withResponse (.ofInt (0#8 ++ b.read 0 ++ b.read 1 ++ b.read 2)))

/-- R101: U24_ENCODE writes the three bytes, and fails exactly when `v >= 0x1000000`. -/
def Obligations.U24EncodeWritesThreeBytesOrFails : Prop :=
  ∀ (s : State) (v : BitVec 32), s.active < s.ports.length →
    (v.toNat ≤ 0xFFFFFF →
      exec (.u24Encode v) s
        = .next (s.withResponse (.ofBytes [v.extractLsb' 16 8, v.extractLsb' 8 8, v.extractLsb' 0 8])))
    ∧ (0x1000000 ≤ v.toNat → exec (.u24Encode v) s = .next (s.withResponse (.error .rangeError)))

/-- R105: the two 24-bit operations invert each other, and U24_DECODE is injective. The second and third laws are the spec's
own derivation ("[derived: from rule R100 and rule R101]"). -/
def Obligations.U24CodecRoundTrips : Prop :=
  ∀ s : State, s.active < s.ports.length →
    (∀ v : BitVec 32, v.toNat ≤ 0xFFFFFF → ∃ b : Bytes 3,
      exec (.u24Encode v) s = .next (s.withResponse (.ofBytes b.data))
      ∧ exec (.u24Decode b) s = .next (s.withResponse (.ofInt v)))
    ∧ (∀ b : Bytes 3, ∃ v : BitVec 32,
      exec (.u24Decode b) s = .next (s.withResponse (.ofInt v))
      ∧ exec (.u24Encode v) s = .next (s.withResponse (.ofBytes b.data)))
    ∧ (∀ a b : Bytes 3, exec (.u24Decode a) s = exec (.u24Decode b) s → a = b)

/-- R102: FLAG_GET answers the field as an integer; a request with `hi < lo` names no field and is refused. -/
def Obligations.FlagGetReadsField : Prop :=
  ∀ (s : State) (b : Byte) (hi lo : BitVec 3), s.active < s.ports.length →
    (lo ≤ hi →
      exec (.flagGet b hi lo) s
        = .next (s.withResponse (.ofInt (BitVec.ofNat 32 (b.toNat / 2 ^ lo.toNat % 2 ^ (hi.toNat - lo.toNat + 1))))))
    ∧ (hi < lo → exec (.flagGet b hi lo) s = .refused (.noFlagField hi lo))

/-- R103: FLAG_SET answers the byte with its field replaced; a request with `hi < lo` is refused. -/
def Obligations.FlagSetWritesField : Prop :=
  ∀ (s : State) (b : Byte) (hi lo : BitVec 3) (v : BitVec 32), s.active < s.ports.length →
    (lo ≤ hi → ∃ out : Byte,
      exec (.flagSet b hi lo v) s = .next (s.withResponse (.ofBytes [out]))
      ∧ ∀ i, i < 8 →
          out.getLsbD i = if lo.toNat ≤ i ∧ i ≤ hi.toNat then v.getLsbD (i - lo.toNat) else b.getLsbD i)
    ∧ (hi < lo → exec (.flagSet b hi lo v) s = .refused (.noFlagField hi lo))

/-- R106: the three laws of the flag accessors, on the answers of the two requests; the spec's own derivation
("[derived: from rule R102 and rule R103]"). -/
def Obligations.FlagAccessorLaws : Prop :=
  ∀ (s : State) (b : Byte) (hi lo : BitVec 3), s.active < s.ports.length → lo ≤ hi →
    (∀ v : BitVec 32, ∃ out : Byte,
      exec (.flagSet b hi lo v) s = .next (s.withResponse (.ofBytes [out]))
      ∧ exec (.flagGet out hi lo) s
          = .next (s.withResponse (.ofInt (BitVec.ofNat 32 (v.toNat % 2 ^ (hi.toNat - lo.toNat + 1)))))
      ∧ ∀ i, i < 8 → (i < lo.toNat ∨ hi.toNat < i) → out.getLsbD i = b.getLsbD i)
    ∧ (∃ v : BitVec 32,
      exec (.flagGet b hi lo) s = .next (s.withResponse (.ofInt v))
      ∧ exec (.flagSet b hi lo v) s = .next (s.withResponse (.ofBytes [b])))

/-- R233: LOOKUP of each defined opcode answers its entry, of every other address UnknownOpcode. -/
def Obligations.LookupAnswersEntryOrUnknownOpcode : Prop :=
  ∀ s : State, s.reg = Registry.contents → s.active < s.ports.length →
    (∀ t : Tag, exec (.lookup t.code) s = .next (s.withResponse (.ofEntry ⟨true, t.code, t.direction⟩)))
    ∧ (∀ op : BitVec 6, (∀ t : Tag, op ≠ t.code) →
      exec (.lookup op) s = .next (s.withResponse (.error (.unknownOpcode op))))

/-- R231: the registry after reset, address by address. What an entry that is not valid holds is R230's, and the direction
below 0x20 is R232's sentence, the spec's own derivation ("[derived: from rule R231]"). -/
def Obligations.RegistryMatchesTable : Prop :=
  ∀ op : BitVec 6,
    ((State.reset.reg.entry op).valid = true
      ↔ ¬ ((0x07 ≤ op ∧ op ≤ 0x0F) ∨ (0x11 ≤ op ∧ op ≤ 0x1F) ∨ (0x27 ≤ op ∧ op ≤ 0x30) ∨ (0x33 ≤ op ∧ op ≤ 0x3E)))
    ∧ ((State.reset.reg.entry op).valid = true →
        (State.reset.reg.entry op).tag = op
        ∧ ((State.reset.reg.entry op).direction = .initiatorToTarget ↔ op < 0x20))
    ∧ ((State.reset.reg.entry op).valid = false →
        (State.reset.reg.entry op).tag = 0 ∧ (State.reset.reg.entry op).direction = .initiatorToTarget)

/-- R231, R232: two consequences of the table, the spec's own derivations ("[derived: from this table]", "[derived: from rule
R231]"). -/
def Obligations.RegistryCountAndDirectionBit : Prop :=
  State.reset.reg.entries.length = 64
  ∧ (State.reset.reg.entries.filter (·.valid)).length = 18
  ∧ ∀ op : BitVec 6, (State.reset.reg.entry op).valid = true →
      (State.reset.reg.entry op).direction.bit = op.extractLsb' 5 1

/-- R71: no two rows of a default layout overlap, and a bit that none names is one the layout rule calls reserved. The
spec's own derivation ("[derived: from rule R60 and rule R74]"), over the default LAYOUT (I1; notes/assumptions/7.md). -/
def Obligations.LayoutsCoverHeaderOnce : Prop :=
  ∀ (t : Tag) (k i : Nat), k < 48 → i < 8 →
    ((Layout.common ++ (Layout.spec.rows t).map (·.kind)).filter fun kind => kindCovers kind k i).length
      = if (namedBits t k).getLsbD i then 1 else 0

/-- R251, R291: a short buffer fails with TooShort, and no byte of it matters. -/
def Obligations.ShortBufferIsTooShort : Prop :=
  ∀ (s : State) (len : Nat) (b : Header48), s.active < s.ports.length → len < 48 →
    exec (.decode len b) s = .next (s.withResponse (.error (.tooShort len)))

/-- R76: the 46 reserved opcodes, on DECODE and on ENCODE. -/
def Obligations.ReservedOpcodesFail : Prop :=
  ∀ (s : State) (op : BitVec 6), s.reg = Registry.contents → s.active < s.ports.length →
    ((0x07 ≤ op ∧ op ≤ 0x0F) ∨ (0x11 ≤ op ∧ op ≤ 0x1F) ∨ (0x27 ≤ op ∧ op ≤ 0x30) ∨ (0x33 ≤ op ∧ op ≤ 0x3E)) →
    (∀ (len : Nat) (b : Header48), 48 ≤ len → (b.read 0).extractLsb' 0 6 = op →
      exec (.decode len b) s = .next (s.withResponse (.error (.unknownOpcode op))))
    ∧ (∀ (c : Common 32) (fields : Fields),
      exec (.encode ⟨c, op, fields⟩) s = .next (s.withResponse (.error .rangeError)))

/-- R121, R122: each field of NOP_OUT is read from and written to its place, reserved
positions are ignored and written 0.
The offsets are the default LAYOUT of R120, which the spec marks GK where they are its own reading of RFC 3720 (D7, I1;
notes/assumptions/7.md); `NopOutFields` are the header values a port of that build carries, and
`EncodeFailsExactlyOutOfDomain` says what any other value gives. -/
def Obligations.NopOutDecodesAndEncodes : Prop :=
  ∀ s : State, s.serving →
    (∀ b : Header48, (b.read 0).extractLsb' 0 6 = 0x00 →
        exec (.nopOut (.wire b)) s = .next (s.withResponse (.ofHeader ⟨commonAt b, 0x00,
          ({ final := flagAt b 7, lun := eightAt b 8, ttt := wordAt b 20, cmdsn := wordAt b 24,
             expStatsn := wordAt b 28 } : NopOutFields).fields⟩)))
    ∧ (∀ (c : Common 32) (v : NopOutFields), c.dataLength.toNat ≤ 0xFFFFFF →
        exec (.nopOut (.typed c v.fields)) s = .next (s.withResponse (.ofBytes
          ([firstByte c 0x00] ++ [flag v.final 7] ++ zeros 2 ++ lengths c ++ v.lun.data ++ word c.itt ++
            word v.ttt ++ word v.cmdsn ++ word v.expStatsn ++ zeros 16))))
    ∧ (∀ (c : Common 32) (v : NopOutFields), 0x1000000 ≤ c.dataLength.toNat →
        exec (.nopOut (.typed c v.fields)) s = .next (s.withResponse (.error .rangeError)))

/-- R124, R126, R125: each field of SCSI_CMD is read from and written to its place, reserved
positions are ignored and written 0, and a value outside the domain fails.
The offsets are the default LAYOUT of R123, which the spec marks GK where they are its own reading of RFC 3720 (D7, I1;
notes/assumptions/7.md); `ScsiCmdFields` are the header values a port of that build carries, and
`EncodeFailsExactlyOutOfDomain` says what any other value gives. -/
def Obligations.ScsiCmdDecodesAndEncodes : Prop :=
  ∀ s : State, s.serving →
    (∀ b : Header48, (b.read 0).extractLsb' 0 6 = 0x01 → (flagsAt b 0 3).toNat ≤ 4 →
        exec (.scsiCmd (.wire b)) s = .next (s.withResponse (.ofHeader ⟨commonAt b, 0x01,
          ({ final := flagAt b 7, read := flagAt b 6, write := flagAt b 5, attr := flagsAt b 0 3,
             lun := eightAt b 8, expXferLength := wordAt b 20, cmdsn := wordAt b 24, expStatsn := wordAt b 28,
             cdb := sixteenAt b 32 } : ScsiCmdFields).fields⟩)))
    ∧ (∀ b : Header48, (b.read 0).extractLsb' 0 6 = 0x01 → 4 < (flagsAt b 0 3).toNat →
        exec (.scsiCmd (.wire b)) s = .next (s.withResponse (.error (.invalidAttribute (flagsAt b 0 3)))))
    ∧ (∀ (c : Common 32) (v : ScsiCmdFields), c.dataLength.toNat ≤ 0xFFFFFF → v.attr.toNat ≤ 4 →
        exec (.scsiCmd (.typed c v.fields)) s = .next (s.withResponse (.ofBytes
          ([firstByte c 0x01] ++ [flag v.final 7 ||| flag v.read 6 ||| flag v.write 5 ||| flags v.attr 0] ++
            zeros 2 ++ lengths c ++ v.lun.data ++ word c.itt ++ word v.expXferLength ++ word v.cmdsn ++
            word v.expStatsn ++ v.cdb.data))))
    ∧ (∀ (c : Common 32) (v : ScsiCmdFields), 0x1000000 ≤ c.dataLength.toNat ∨ 4 < v.attr.toNat →
        exec (.scsiCmd (.typed c v.fields)) s = .next (s.withResponse (.error .rangeError)))

/-- R128, R130, R129: each field of TMF_REQ is read from and written to its place, reserved
positions are ignored and written 0, and a value outside the domain fails.
The offsets are the default LAYOUT of R127, which the spec marks GK where they are its own reading of RFC 3720 (D7, I1;
notes/assumptions/7.md); `TmfReqFields` are the header values a port of that build carries, and
`EncodeFailsExactlyOutOfDomain` says what any other value gives. -/
def Obligations.TmfReqDecodesAndEncodes : Prop :=
  ∀ s : State, s.serving →
    (∀ b : Header48, (b.read 0).extractLsb' 0 6 = 0x02 → 1 ≤ (flagsAt b 0 7).toNat → (flagsAt b 0 7).toNat ≤ 8 →
        exec (.tmfReq (.wire b)) s = .next (s.withResponse (.ofHeader ⟨commonAt b, 0x02,
          ({ function := flagsAt b 0 7, lun := eightAt b 8, rtt := wordAt b 20, cmdsn := wordAt b 24,
             expStatsn := wordAt b 28, refcmdsn := wordAt b 32,
             expDatasn := wordAt b 36 } : TmfReqFields).fields⟩)))
    ∧ (∀ b : Header48, (b.read 0).extractLsb' 0 6 = 0x02 → (flagsAt b 0 7).toNat < 1 ∨ 8 < (flagsAt b 0 7).toNat →
        exec (.tmfReq (.wire b)) s = .next (s.withResponse (.error (.unknownFunction (flagsAt b 0 7)))))
    ∧ (∀ (c : Common 32) (v : TmfReqFields), c.dataLength.toNat ≤ 0xFFFFFF → 1 ≤ v.function.toNat → v.function.toNat ≤ 8 →
        exec (.tmfReq (.typed c v.fields)) s = .next (s.withResponse (.ofBytes
          ([firstByte c 0x02] ++ [flag s.params.tmfBit7 7 ||| flags v.function 0] ++ zeros 2 ++ lengths c ++
            v.lun.data ++ word c.itt ++ word v.rtt ++ word v.cmdsn ++ word v.expStatsn ++ word v.refcmdsn ++
            word v.expDatasn ++ zeros 8))))
    ∧ (∀ (c : Common 32) (v : TmfReqFields), 0x1000000 ≤ c.dataLength.toNat ∨ v.function.toNat < 1 ∨ 8 < v.function.toNat →
        exec (.tmfReq (.typed c v.fields)) s = .next (s.withResponse (.error .rangeError)))

/-- R132, R134, R133: each field of LOGIN_REQ is read from and written to its place, reserved
positions are ignored and written 0, and a value outside the domain fails.
The offsets are the default LAYOUT of R131, which the spec marks GK where they are its own reading of RFC 3720 (D7, I1;
notes/assumptions/7.md); `LoginReqFields` are the header values a port of that build carries, and
`EncodeFailsExactlyOutOfDomain` says what any other value gives. -/
def Obligations.LoginReqDecodesAndEncodes : Prop :=
  ∀ s : State, s.serving →
    (∀ b : Header48, (b.read 0).extractLsb' 0 6 = 0x03 → flagsAt b 2 2 ≠ 2 → flagsAt b 0 2 ≠ 2 →
        exec (.loginReq (.wire b)) s = .next (s.withResponse (.ofHeader ⟨commonAt b, 0x03,
          ({ transit := flagAt b 7, cont := flagAt b 6, csg := flagsAt b 2 2, nsg := flagsAt b 0 2,
             maxVersion := b.read 2, minVersion := b.read 3, isid := sixAt b 8, tsih := halfAt b 14,
             cid := halfAt b 20, cmdsn := wordAt b 24, expStatsn := wordAt b 28 } : LoginReqFields).fields⟩)))
    ∧ (∀ b : Header48, (b.read 0).extractLsb' 0 6 = 0x03 → flagsAt b 2 2 = 2 ∨ flagsAt b 0 2 = 2 →
        exec (.loginReq (.wire b)) s = .next (s.withResponse (.error (.invalidStage 2))))
    ∧ (∀ (c : Common 32) (v : LoginReqFields), c.dataLength.toNat ≤ 0xFFFFFF → v.csg ≠ 2 → v.nsg ≠ 2 →
        exec (.loginReq (.typed c v.fields)) s = .next (s.withResponse (.ofBytes
          ([firstByte c 0x03] ++ [flag v.transit 7 ||| flag v.cont 6 ||| flags v.csg 2 ||| flags v.nsg 0] ++
            [v.maxVersion] ++ [v.minVersion] ++ lengths c ++ v.isid.data ++ half v.tsih ++ word c.itt ++
            half v.cid ++ zeros 2 ++ word v.cmdsn ++ word v.expStatsn ++ zeros 16))))
    ∧ (∀ (c : Common 32) (v : LoginReqFields), 0x1000000 ≤ c.dataLength.toNat ∨ v.csg = 2 ∨ v.nsg = 2 →
        exec (.loginReq (.typed c v.fields)) s = .next (s.withResponse (.error .rangeError)))

/-- R136, R137: each field of TEXT_REQ is read from and written to its place, reserved
positions are ignored and written 0.
The offsets are the default LAYOUT of R135, which the spec marks GK where they are its own reading of RFC 3720 (D7, I1;
notes/assumptions/7.md); `TextReqFields` are the header values a port of that build carries, and
`EncodeFailsExactlyOutOfDomain` says what any other value gives. -/
def Obligations.TextReqDecodesAndEncodes : Prop :=
  ∀ s : State, s.serving →
    (∀ b : Header48, (b.read 0).extractLsb' 0 6 = 0x04 →
        exec (.textReq (.wire b)) s = .next (s.withResponse (.ofHeader ⟨commonAt b, 0x04,
          ({ final := flagAt b 7, cont := flagAt b 6, ttt := wordAt b 20, cmdsn := wordAt b 24,
             expStatsn := wordAt b 28 } : TextReqFields).fields⟩)))
    ∧ (∀ (c : Common 32) (v : TextReqFields), c.dataLength.toNat ≤ 0xFFFFFF →
        exec (.textReq (.typed c v.fields)) s = .next (s.withResponse (.ofBytes
          ([firstByte c 0x04] ++ [flag v.final 7 ||| flag v.cont 6] ++ zeros 2 ++ lengths c ++ zeros 8 ++
            word c.itt ++ word v.ttt ++ word v.cmdsn ++ word v.expStatsn ++ zeros 16))))
    ∧ (∀ (c : Common 32) (v : TextReqFields), 0x1000000 ≤ c.dataLength.toNat →
        exec (.textReq (.typed c v.fields)) s = .next (s.withResponse (.error .rangeError)))

/-- R139, R140: each field of DATA_OUT is read from and written to its place, reserved
positions are ignored and written 0.
The offsets are the default LAYOUT of R138, which the spec marks GK where they are its own reading of RFC 3720 (D7, I1;
notes/assumptions/7.md); `DataOutFields` are the header values a port of that build carries, and
`EncodeFailsExactlyOutOfDomain` says what any other value gives. -/
def Obligations.DataOutDecodesAndEncodes : Prop :=
  ∀ s : State, s.serving →
    (∀ b : Header48, (b.read 0).extractLsb' 0 6 = 0x05 →
        exec (.dataOut (.wire b)) s = .next (s.withResponse (.ofHeader ⟨commonAt b, 0x05,
          ({ final := flagAt b 7, lun := eightAt b 8, ttt := wordAt b 20, expStatsn := wordAt b 28,
             datasn := wordAt b 36, bufferOffset := wordAt b 40 } : DataOutFields).fields⟩)))
    ∧ (∀ (c : Common 32) (v : DataOutFields), c.dataLength.toNat ≤ 0xFFFFFF →
        exec (.dataOut (.typed c v.fields)) s = .next (s.withResponse (.ofBytes
          ([firstByte c 0x05] ++ [flag v.final 7] ++ zeros 2 ++ lengths c ++ v.lun.data ++ word c.itt ++
            word v.ttt ++ zeros 4 ++ word v.expStatsn ++ zeros 4 ++ word v.datasn ++ word v.bufferOffset ++
            zeros 4))))
    ∧ (∀ (c : Common 32) (v : DataOutFields), 0x1000000 ≤ c.dataLength.toNat →
        exec (.dataOut (.typed c v.fields)) s = .next (s.withResponse (.error .rangeError)))

/-- R142, R143: each field of LOGOUT_REQ is read from and written to its place, reserved
positions are ignored and written 0.
The offsets are the default LAYOUT of R141, which the spec marks GK where they are its own reading of RFC 3720 (D7, I1;
notes/assumptions/7.md); `LogoutReqFields` are the header values a port of that build carries, and
`EncodeFailsExactlyOutOfDomain` says what any other value gives. -/
def Obligations.LogoutReqDecodesAndEncodes : Prop :=
  ∀ s : State, s.serving →
    (∀ b : Header48, (b.read 0).extractLsb' 0 6 = 0x06 →
        exec (.logoutReq (.wire b)) s = .next (s.withResponse (.ofHeader ⟨commonAt b, 0x06,
          ({ final := flagAt b 7, reason := flagsAt b 0 7, cid := halfAt b 20, cmdsn := wordAt b 24,
             expStatsn := wordAt b 28 } : LogoutReqFields).fields⟩)))
    ∧ (∀ (c : Common 32) (v : LogoutReqFields), c.dataLength.toNat ≤ 0xFFFFFF →
        exec (.logoutReq (.typed c v.fields)) s = .next (s.withResponse (.ofBytes
          ([firstByte c 0x06] ++ [flag v.final 7 ||| flags v.reason 0] ++ zeros 2 ++ lengths c ++ zeros 8 ++
            word c.itt ++ half v.cid ++ zeros 2 ++ word v.cmdsn ++ word v.expStatsn ++ zeros 16))))
    ∧ (∀ (c : Common 32) (v : LogoutReqFields), 0x1000000 ≤ c.dataLength.toNat →
        exec (.logoutReq (.typed c v.fields)) s = .next (s.withResponse (.error .rangeError)))

/-- R145, R146: each field of SNACK is read from and written to its place, reserved
positions are ignored and written 0.
The offsets are the default LAYOUT of R144, which the spec marks GK where they are its own reading of RFC 3720 (D7, I1;
notes/assumptions/7.md); `SnackFields` are the header values a port of that build carries, and
`EncodeFailsExactlyOutOfDomain` says what any other value gives. -/
def Obligations.SnackDecodesAndEncodes : Prop :=
  ∀ s : State, s.serving →
    (∀ b : Header48, (b.read 0).extractLsb' 0 6 = 0x10 →
        exec (.snack (.wire b)) s = .next (s.withResponse (.ofHeader ⟨commonAt b, 0x10,
          ({ final := flagAt b 7, snackType := flagsAt b 0 4, ttt := wordAt b 20, expStatsn := wordAt b 28,
             begrun := wordAt b 40, runlength := wordAt b 44 } : SnackFields).fields⟩)))
    ∧ (∀ (c : Common 32) (v : SnackFields), c.dataLength.toNat ≤ 0xFFFFFF →
        exec (.snack (.typed c v.fields)) s = .next (s.withResponse (.ofBytes
          ([firstByte c 0x10] ++ [flag v.final 7 ||| flags v.snackType 0] ++ zeros 2 ++ lengths c ++ zeros 8 ++
            word c.itt ++ word v.ttt ++ zeros 4 ++ word v.expStatsn ++ zeros 8 ++ word v.begrun ++
            word v.runlength))))
    ∧ (∀ (c : Common 32) (v : SnackFields), 0x1000000 ≤ c.dataLength.toNat →
        exec (.snack (.typed c v.fields)) s = .next (s.withResponse (.error .rangeError)))

/-- R171, R172: each field of NOP_IN is read from and written to its place, reserved
positions are ignored and written 0.
The offsets are the default LAYOUT of R170, which the spec marks GK where they are its own reading of RFC 3720 (D7, I1;
notes/assumptions/7.md); `NopInFields` are the header values a port of that build carries, and
`EncodeFailsExactlyOutOfDomain` says what any other value gives. -/
def Obligations.NopInDecodesAndEncodes : Prop :=
  ∀ s : State, s.serving →
    (∀ b : Header48, (b.read 0).extractLsb' 0 6 = 0x20 →
        exec (.nopIn (.wire b)) s = .next (s.withResponse (.ofHeader ⟨commonAt b, 0x20,
          ({ final := flagAt b 7, lun := eightAt b 8, ttt := wordAt b 20, statsn := wordAt b 24,
             expCmdsn := wordAt b 28, maxCmdsn := wordAt b 32 } : NopInFields).fields⟩)))
    ∧ (∀ (c : Common 32) (v : NopInFields), c.dataLength.toNat ≤ 0xFFFFFF →
        exec (.nopIn (.typed c v.fields)) s = .next (s.withResponse (.ofBytes
          ([firstByte c 0x20] ++ [flag v.final 7] ++ zeros 2 ++ lengths c ++ v.lun.data ++ word c.itt ++
            word v.ttt ++ word v.statsn ++ word v.expCmdsn ++ word v.maxCmdsn ++ zeros 12))))
    ∧ (∀ (c : Common 32) (v : NopInFields), 0x1000000 ≤ c.dataLength.toNat →
        exec (.nopIn (.typed c v.fields)) s = .next (s.withResponse (.error .rangeError)))

/-- R174, R175: each field of SCSI_RSP is read from and written to its place, reserved
positions are ignored and written 0.
The offsets are the default LAYOUT of R173, which the spec marks GK where they are its own reading of RFC 3720 (D7, I1;
notes/assumptions/7.md); `ScsiRspFields` are the header values a port of that build carries, and
`EncodeFailsExactlyOutOfDomain` says what any other value gives. -/
def Obligations.ScsiRspDecodesAndEncodes : Prop :=
  ∀ s : State, s.serving →
    (∀ b : Header48, (b.read 0).extractLsb' 0 6 = 0x21 →
        exec (.scsiRsp (.wire b)) s = .next (s.withResponse (.ofHeader ⟨commonAt b, 0x21,
          ({ final := flagAt b 7, bidiOverflow := flagAt b 4, bidiUnderflow := flagAt b 3,
             overflow := flagAt b 2, underflow := flagAt b 1, response := b.read 2, cmdStatus := b.read 3,
             snackTag := wordAt b 20, statsn := wordAt b 24, expCmdsn := wordAt b 28, maxCmdsn := wordAt b 32,
             expDatasn := wordAt b 36, biResidualCount := wordAt b 40,
             residualCount := wordAt b 44 } : ScsiRspFields).fields⟩)))
    ∧ (∀ (c : Common 32) (v : ScsiRspFields), c.dataLength.toNat ≤ 0xFFFFFF →
        exec (.scsiRsp (.typed c v.fields)) s = .next (s.withResponse (.ofBytes
          ([firstByte c 0x21] ++
            [flag v.final 7 ||| flag v.bidiOverflow 4 ||| flag v.bidiUnderflow 3 ||| flag v.overflow 2 ||| flag v.underflow 1] ++
            [v.response] ++ [v.cmdStatus] ++ lengths c ++ zeros 8 ++ word c.itt ++ word v.snackTag ++
            word v.statsn ++ word v.expCmdsn ++ word v.maxCmdsn ++ word v.expDatasn ++
            word v.biResidualCount ++ word v.residualCount))))
    ∧ (∀ (c : Common 32) (v : ScsiRspFields), 0x1000000 ≤ c.dataLength.toNat →
        exec (.scsiRsp (.typed c v.fields)) s = .next (s.withResponse (.error .rangeError)))

/-- R177, R178: each field of TMF_RSP is read from and written to its place, reserved
positions are ignored and written 0.
The offsets are the default LAYOUT of R176, which the spec marks GK where they are its own reading of RFC 3720 (D7, I1;
notes/assumptions/7.md); `TmfRspFields` are the header values a port of that build carries, and
`EncodeFailsExactlyOutOfDomain` says what any other value gives. -/
def Obligations.TmfRspDecodesAndEncodes : Prop :=
  ∀ s : State, s.serving →
    (∀ b : Header48, (b.read 0).extractLsb' 0 6 = 0x22 →
        exec (.tmfRsp (.wire b)) s = .next (s.withResponse (.ofHeader ⟨commonAt b, 0x22,
          ({ final := flagAt b 7, response := b.read 2, statsn := wordAt b 24, expCmdsn := wordAt b 28,
             maxCmdsn := wordAt b 32 } : TmfRspFields).fields⟩)))
    ∧ (∀ (c : Common 32) (v : TmfRspFields), c.dataLength.toNat ≤ 0xFFFFFF →
        exec (.tmfRsp (.typed c v.fields)) s = .next (s.withResponse (.ofBytes
          ([firstByte c 0x22] ++ [flag v.final 7] ++ [v.response] ++ zeros 1 ++ lengths c ++ zeros 8 ++
            word c.itt ++ zeros 4 ++ word v.statsn ++ word v.expCmdsn ++ word v.maxCmdsn ++ zeros 12))))
    ∧ (∀ (c : Common 32) (v : TmfRspFields), 0x1000000 ≤ c.dataLength.toNat →
        exec (.tmfRsp (.typed c v.fields)) s = .next (s.withResponse (.error .rangeError)))

/-- R180, R181, R133: each field of LOGIN_RSP is read from and written to its place, reserved
positions are ignored and written 0, and a value outside the domain fails.
The offsets are the default LAYOUT of R179, which the spec marks GK where they are its own reading of RFC 3720 (D7, I1;
notes/assumptions/7.md); `LoginRspFields` are the header values a port of that build carries, and
`EncodeFailsExactlyOutOfDomain` says what any other value gives. -/
def Obligations.LoginRspDecodesAndEncodes : Prop :=
  ∀ s : State, s.serving →
    (∀ b : Header48, (b.read 0).extractLsb' 0 6 = 0x23 → flagsAt b 2 2 ≠ 2 → flagsAt b 0 2 ≠ 2 →
        exec (.loginRsp (.wire b)) s = .next (s.withResponse (.ofHeader ⟨commonAt b, 0x23,
          ({ transit := flagAt b 7, cont := flagAt b 6, csg := flagsAt b 2 2, nsg := flagsAt b 0 2,
             maxVersion := b.read 2, activeVersion := b.read 3, isid := sixAt b 8, tsih := halfAt b 14,
             statsn := wordAt b 24, expCmdsn := wordAt b 28, maxCmdsn := wordAt b 32, statusClass := b.read 36,
             statusDetail := b.read 37 } : LoginRspFields).fields⟩)))
    ∧ (∀ b : Header48, (b.read 0).extractLsb' 0 6 = 0x23 → flagsAt b 2 2 = 2 ∨ flagsAt b 0 2 = 2 →
        exec (.loginRsp (.wire b)) s = .next (s.withResponse (.error (.invalidStage 2))))
    ∧ (∀ (c : Common 32) (v : LoginRspFields), c.dataLength.toNat ≤ 0xFFFFFF → v.csg ≠ 2 → v.nsg ≠ 2 →
        exec (.loginRsp (.typed c v.fields)) s = .next (s.withResponse (.ofBytes
          ([firstByte c 0x23] ++ [flag v.transit 7 ||| flag v.cont 6 ||| flags v.csg 2 ||| flags v.nsg 0] ++
            [v.maxVersion] ++ [v.activeVersion] ++ lengths c ++ v.isid.data ++ half v.tsih ++ word c.itt ++
            zeros 4 ++ word v.statsn ++ word v.expCmdsn ++ word v.maxCmdsn ++ [v.statusClass] ++
            [v.statusDetail] ++ zeros 10))))
    ∧ (∀ (c : Common 32) (v : LoginRspFields), 0x1000000 ≤ c.dataLength.toNat ∨ v.csg = 2 ∨ v.nsg = 2 →
        exec (.loginRsp (.typed c v.fields)) s = .next (s.withResponse (.error .rangeError)))

/-- R183, R184: each field of TEXT_RSP is read from and written to its place, reserved
positions are ignored and written 0.
The offsets are the default LAYOUT of R182, which the spec marks GK where they are its own reading of RFC 3720 (D7, I1;
notes/assumptions/7.md); `TextRspFields` are the header values a port of that build carries, and
`EncodeFailsExactlyOutOfDomain` says what any other value gives. -/
def Obligations.TextRspDecodesAndEncodes : Prop :=
  ∀ s : State, s.serving →
    (∀ b : Header48, (b.read 0).extractLsb' 0 6 = 0x24 →
        exec (.textRsp (.wire b)) s = .next (s.withResponse (.ofHeader ⟨commonAt b, 0x24,
          ({ final := flagAt b 7, cont := flagAt b 6, ttt := wordAt b 20, statsn := wordAt b 24,
             expCmdsn := wordAt b 28, maxCmdsn := wordAt b 32 } : TextRspFields).fields⟩)))
    ∧ (∀ (c : Common 32) (v : TextRspFields), c.dataLength.toNat ≤ 0xFFFFFF →
        exec (.textRsp (.typed c v.fields)) s = .next (s.withResponse (.ofBytes
          ([firstByte c 0x24] ++ [flag v.final 7 ||| flag v.cont 6] ++ zeros 2 ++ lengths c ++ zeros 8 ++
            word c.itt ++ word v.ttt ++ word v.statsn ++ word v.expCmdsn ++ word v.maxCmdsn ++ zeros 12))))
    ∧ (∀ (c : Common 32) (v : TextRspFields), 0x1000000 ≤ c.dataLength.toNat →
        exec (.textRsp (.typed c v.fields)) s = .next (s.withResponse (.error .rangeError)))

/-- R186, R187: each field of DATA_IN is read from and written to its place, reserved
positions are ignored and written 0.
The offsets are the default LAYOUT of R185, which the spec marks GK where they are its own reading of RFC 3720 (D7, I1;
notes/assumptions/7.md); `DataInFields` are the header values a port of that build carries, and
`EncodeFailsExactlyOutOfDomain` says what any other value gives. -/
def Obligations.DataInDecodesAndEncodes : Prop :=
  ∀ s : State, s.serving →
    (∀ b : Header48, (b.read 0).extractLsb' 0 6 = 0x25 →
        exec (.dataIn (.wire b)) s = .next (s.withResponse (.ofHeader ⟨commonAt b, 0x25,
          ({ final := flagAt b 7, ack := flagAt b 6, overflow := flagAt b 2, underflow := flagAt b 1,
             statusPresent := flagAt b 0, cmdStatus := b.read 3, lun := eightAt b 8, ttt := wordAt b 20,
             statsn := wordAt b 24, expCmdsn := wordAt b 28, maxCmdsn := wordAt b 32, datasn := wordAt b 36,
             bufferOffset := wordAt b 40, residualCount := wordAt b 44 } : DataInFields).fields⟩)))
    ∧ (∀ (c : Common 32) (v : DataInFields), c.dataLength.toNat ≤ 0xFFFFFF →
        exec (.dataIn (.typed c v.fields)) s = .next (s.withResponse (.ofBytes
          ([firstByte c 0x25] ++
            [flag v.final 7 ||| flag v.ack 6 ||| flag v.overflow 2 ||| flag v.underflow 1 ||| flag v.statusPresent 0] ++
            zeros 1 ++ [v.cmdStatus] ++ lengths c ++ v.lun.data ++ word c.itt ++ word v.ttt ++ word v.statsn ++
            word v.expCmdsn ++ word v.maxCmdsn ++ word v.datasn ++ word v.bufferOffset ++
            word v.residualCount))))
    ∧ (∀ (c : Common 32) (v : DataInFields), 0x1000000 ≤ c.dataLength.toNat →
        exec (.dataIn (.typed c v.fields)) s = .next (s.withResponse (.error .rangeError)))

/-- R189, R190: each field of LOGOUT_RSP is read from and written to its place, reserved
positions are ignored and written 0.
The offsets are the default LAYOUT of R188, which the spec marks GK where they are its own reading of RFC 3720 (D7, I1;
notes/assumptions/7.md); `LogoutRspFields` are the header values a port of that build carries, and
`EncodeFailsExactlyOutOfDomain` says what any other value gives. -/
def Obligations.LogoutRspDecodesAndEncodes : Prop :=
  ∀ s : State, s.serving →
    (∀ b : Header48, (b.read 0).extractLsb' 0 6 = 0x26 →
        exec (.logoutRsp (.wire b)) s = .next (s.withResponse (.ofHeader ⟨commonAt b, 0x26,
          ({ final := flagAt b 7, response := b.read 2, statsn := wordAt b 24, expCmdsn := wordAt b 28,
             maxCmdsn := wordAt b 32, time2wait := halfAt b 40,
             time2retain := halfAt b 42 } : LogoutRspFields).fields⟩)))
    ∧ (∀ (c : Common 32) (v : LogoutRspFields), c.dataLength.toNat ≤ 0xFFFFFF →
        exec (.logoutRsp (.typed c v.fields)) s = .next (s.withResponse (.ofBytes
          ([firstByte c 0x26] ++ [flag v.final 7] ++ [v.response] ++ zeros 1 ++ lengths c ++ zeros 8 ++
            word c.itt ++ zeros 4 ++ word v.statsn ++ word v.expCmdsn ++ word v.maxCmdsn ++ zeros 4 ++
            half v.time2wait ++ half v.time2retain ++ zeros 4))))
    ∧ (∀ (c : Common 32) (v : LogoutRspFields), 0x1000000 ≤ c.dataLength.toNat →
        exec (.logoutRsp (.typed c v.fields)) s = .next (s.withResponse (.error .rangeError)))

/-- R192, R193: each field of R2T is read from and written to its place, reserved
positions are ignored and written 0.
The offsets are the default LAYOUT of R191, which the spec marks GK where they are its own reading of RFC 3720 (D7, I1;
notes/assumptions/7.md); `R2tFields` are the header values a port of that build carries, and
`EncodeFailsExactlyOutOfDomain` says what any other value gives. -/
def Obligations.R2tDecodesAndEncodes : Prop :=
  ∀ s : State, s.serving →
    (∀ b : Header48, (b.read 0).extractLsb' 0 6 = 0x31 →
        exec (.r2t (.wire b)) s = .next (s.withResponse (.ofHeader ⟨commonAt b, 0x31,
          ({ final := flagAt b 7, lun := eightAt b 8, ttt := wordAt b 20, statsn := wordAt b 24,
             expCmdsn := wordAt b 28, maxCmdsn := wordAt b 32, rttsn := wordAt b 36, dataOffset := wordAt b 40,
             desiredLength := wordAt b 44 } : R2tFields).fields⟩)))
    ∧ (∀ (c : Common 32) (v : R2tFields), c.dataLength.toNat ≤ 0xFFFFFF →
        exec (.r2t (.typed c v.fields)) s = .next (s.withResponse (.ofBytes
          ([firstByte c 0x31] ++ [flag v.final 7] ++ zeros 2 ++ lengths c ++ v.lun.data ++ word c.itt ++
            word v.ttt ++ word v.statsn ++ word v.expCmdsn ++ word v.maxCmdsn ++ word v.rttsn ++
            word v.dataOffset ++ word v.desiredLength))))
    ∧ (∀ (c : Common 32) (v : R2tFields), 0x1000000 ≤ c.dataLength.toNat →
        exec (.r2t (.typed c v.fields)) s = .next (s.withResponse (.error .rangeError)))

/-- R195, R196: each field of ASYNC is read from and written to its place, reserved
positions are ignored and written 0.
The offsets are the default LAYOUT of R194, which the spec marks GK where they are its own reading of RFC 3720 (D7, I1;
notes/assumptions/7.md); `AsyncFields` are the header values a port of that build carries, and
`EncodeFailsExactlyOutOfDomain` says what any other value gives. -/
def Obligations.AsyncDecodesAndEncodes : Prop :=
  ∀ s : State, s.serving →
    (∀ b : Header48, (b.read 0).extractLsb' 0 6 = 0x32 →
        exec (.async (.wire b)) s = .next (s.withResponse (.ofHeader ⟨commonAt b, 0x32,
          ({ final := flagAt b 7, lun := eightAt b 8, statsn := wordAt b 24, expCmdsn := wordAt b 28,
             maxCmdsn := wordAt b 32, asyncEvent := b.read 36, asyncVcode := b.read 37, param1 := halfAt b 38,
             param2 := halfAt b 40, param3 := halfAt b 42 } : AsyncFields).fields⟩)))
    ∧ (∀ (c : Common 32) (v : AsyncFields), c.dataLength.toNat ≤ 0xFFFFFF →
        exec (.async (.typed c v.fields)) s = .next (s.withResponse (.ofBytes
          ([firstByte c 0x32] ++ [flag v.final 7] ++ zeros 2 ++ lengths c ++ v.lun.data ++ word c.itt ++
            zeros 4 ++ word v.statsn ++ word v.expCmdsn ++ word v.maxCmdsn ++ [v.asyncEvent] ++
            [v.asyncVcode] ++ half v.param1 ++ half v.param2 ++ half v.param3 ++ zeros 4))))
    ∧ (∀ (c : Common 32) (v : AsyncFields), 0x1000000 ≤ c.dataLength.toNat →
        exec (.async (.typed c v.fields)) s = .next (s.withResponse (.error .rangeError)))

/-- R198, R199: each field of REJECT is read from and written to its place, reserved
positions are ignored and written 0.
The offsets are the default LAYOUT of R197, which the spec marks GK where they are its own reading of RFC 3720 (D7, I1;
notes/assumptions/7.md); `RejectFields` are the header values a port of that build carries, and
`EncodeFailsExactlyOutOfDomain` says what any other value gives. -/
def Obligations.RejectDecodesAndEncodes : Prop :=
  ∀ s : State, s.serving →
    (∀ b : Header48, (b.read 0).extractLsb' 0 6 = 0x3F →
        exec (.reject (.wire b)) s = .next (s.withResponse (.ofHeader ⟨commonAt b, 0x3F,
          ({ final := flagAt b 7, reason := b.read 2, statsn := wordAt b 24, expCmdsn := wordAt b 28,
             maxCmdsn := wordAt b 32, datasn := wordAt b 36 } : RejectFields).fields⟩)))
    ∧ (∀ (c : Common 32) (v : RejectFields), c.dataLength.toNat ≤ 0xFFFFFF →
        exec (.reject (.typed c v.fields)) s = .next (s.withResponse (.ofBytes
          ([firstByte c 0x3F] ++ [flag v.final 7] ++ [v.reason] ++ zeros 1 ++ lengths c ++ zeros 8 ++
            word c.itt ++ zeros 4 ++ word v.statsn ++ word v.expCmdsn ++ word v.maxCmdsn ++ word v.datasn ++
            zeros 8))))
    ∧ (∀ (c : Common 32) (v : RejectFields), 0x1000000 ≤ c.dataLength.toNat →
        exec (.reject (.typed c v.fields)) s = .next (s.withResponse (.error .rangeError)))

/-- R250, R297: TooShort before UnknownOpcode before the single check of the tag, before Ok. The checks read byte 1 alone (R255),
so no LAYOUT enters. -/
def Obligations.DecodeStatusFollowsStepOrder : Prop :=
  ∀ (s : State) (len : Nat) (b : Header48), s.reg = Registry.contents → s.active < s.ports.length →
    ∃ r : Response, exec (.decode len b) s = .next (s.withResponse r)
      ∧ r.status
          = if len < 48 then .tooShort len
            else
              match Tag.ofCode ((b.read 0).extractLsb' 0 6) with
              | none => .unknownOpcode ((b.read 0).extractLsb' 0 6)
              | some t => checkStatus t (b.read 1)

/-- R250: what DECODE answers for every buffer it accepts: the common fields (R253), the variant fields row by row (R254, R72, R70)
and the residual pair (R256), in a build with any LAYOUT. What the rows of a table that is not legal read (past offset 47, two rows
of one name) is the model's choice (DESIGN CHOICE: notes/assumptions/11.md). -/
def Obligations.DecodeAnswersHeaderAndResidual : Prop :=
  ∀ (s : State) (len : Nat) (b : Header48) (t : Tag), s.reg = Registry.contents → s.active < s.ports.length → 48 ≤ len →
    (b.read 0).extractLsb' 0 6 = t.code → checkStatus t (b.read 1) = .ok →
    exec (.decode len b) s
      = .next (s.withResponse
          { status := .ok, hdrOut := some ⟨commonAt b, t.code, (s.rows t).map fun r => (r.field, r.kind.read b)⟩,
            ahsLength := some (b.read 4), dataLength := some (b.read 5 ++ b.read 6 ++ b.read 7) })

/-- R258: the complete list of ENCODE's checks. For variant fields that are not those of the build's rows, which no `hdr` signal
of the build can carry and R258 does not list, RangeError is the model's choice (DESIGN CHOICE: notes/assumptions/10.md). So is what
ENCODE checks under a table that is not legal, where a checked field has no row or two, or a `sub` has `hi < lo` (DESIGN CHOICE:
notes/assumptions/11.md). -/
def Obligations.EncodeFailsExactlyOutOfDomain : Prop :=
  ∀ (s : State) (h : Header 32), s.reg = Registry.contents → s.active < s.ports.length →
    (exec (.encode h) s = .next (s.withResponse (.error .rangeError)) ↔ ¬ headerInDomain s.params.layout h)

/-- R259, R260: the common fields of every header that ENCODE accepts; R48, R257: `OUT` has exactly 48 bytes, and an offset
past 47 has no value (notes/assumptions/8.md). -/
def Obligations.EncodeWritesCommonFields : Prop :=
  ∀ (s : State) (h : Header 32), s.lawful → s.active < s.ports.length → headerInDomain s.params.layout h →
    ∃ out : Header48, exec (.encode h) s = .next (s.withResponse (.ofBytes out.data))
      ∧ out.read 0 = firstByte h.common (h.tag.setWidth 8)
      ∧ out.read 4 = h.common.ahsLength
      ∧ out.read 5 ++ out.read 6 ++ out.read 7 = h.common.dataLength.extractLsb' 0 24
      ∧ wordAt out 16 = h.common.itt
      ∧ (∀ k, (s.withResponse (.ofBytes out.data)).readOut s.active k
          = if k < 48 then .ok (out.read k) else .error (.signalNotValid s.active))

/-- R254: the generic operations and the per-variant rows agree, tag by tag. That a PDU row takes precedence over DECODE and
ENCODE is the model's reading of the table (notes/assumptions/1.md). -/
def Obligations.MultiplexerSelectsOneArm : Prop :=
  ∀ s : State, s.reg = Registry.contents →
    (∀ (t : Tag) (len : Nat) (b : Header48), 48 ≤ len → (b.read 0).extractLsb' 0 6 = t.code →
      exec (.decode len b) s = exec (pduOfWire t b) s)
    ∧ (∀ (h : Header 32) (t : Tag), h.tag = t.code →
      pduOfHeader h = pduOfTyped t h.common h.fields ∧ (∀ len b, pduOfHeader h ≠ .decode len b) ∧ (∀ h', pduOfHeader h ≠ .encode h')
      ∧ exec (.encode h) s = exec (pduOfHeader h) s)

/-- R262: no defined field is lost by encoding a header and decoding the bytes, in a build with any legal LAYOUT. Any
`P_TMF_BIT7` is the spec's own derivation ("[derived: from 41_initiator_variants.md rule R127 and 41_initiator_variants.md
rule R130]"); any `len >= 48`, where R262 says 48, rests on R47 and R250. Which tables are legal is R71 as `Layout.LawfulRows`
writes it out (notes/assumptions/11.md). -/
def Obligations.EncodeThenDecodeReturnsHeader : Prop :=
  ∀ (s : State) (h : Header 32), s.lawful → s.active < s.ports.length → headerInDomain s.params.layout h →
    ∃ out : Header48, exec (.encode h) s = .next (s.withResponse (.ofBytes out.data))
      ∧ ∀ len, 48 ≤ len → ∃ d : Header 24,
          exec (.decode len out) s = .next (s.withResponse (.ofHeader d)) ∧ widenHeader d = h

/-- R263: encoding a decoded header gives the buffer back, but for its reserved positions, in a build with any legal LAYOUT. The
spec's own derivation ("[derived: from rule R250, rule R257 and 30_encoding.md rule R74]"). For the default LAYOUT,
`LayoutsCoverHeaderOnce` says which positions are reserved. -/
def Obligations.DecodeThenEncodeClearsReserved : Prop :=
  ∀ (s : State) (len : Nat) (b : Header48) (h : Header 24), s.lawful → s.active < s.ports.length →
    exec (.decode len b) s = .next (s.withResponse (.ofHeader h)) →
    ∃ (t : Tag) (z : Header48), h.tag = t.code
      ∧ exec (.encode (widenHeader h)) s = .next (s.withResponse (.ofBytes z.data))
      ∧ (∀ k i, k < 48 → i < 8 →
          (z.read k).getLsbD i
            = if named (s.rows t) k i = true then (b.read k).getLsbD i else unnamedBit t s.params.tmfBit7 k i)
      ∧ (z = b
          ↔ ∀ k i, k < 48 → i < 8 → named (s.rows t) k i = false →
              (b.read k).getLsbD i = unnamedBit t s.params.tmfBit7 k i)

/-- R265: `retry` and `immediate` never take part in the choice of a variant or in a check. The spec's own derivation
("[derived: from rule R252, rule R253 and rule R259]"). -/
def Obligations.ControlBitsAreIndependent : Prop :=
  ∀ (s : State) (len : Nat) (b : Header48) (r i : Bool), s.lawful → s.active < s.ports.length →
    let b' := b.put 0 (flag r 7 ||| flag i 6 ||| (b.read 0 &&& 0x3F))
    (∀ st : Status, exec (.decode len b) s = .next (s.withResponse (.error st)) →
      exec (.decode len b') s = .next (s.withResponse (.error st)))
    ∧ (∀ h : Header 24, exec (.decode len b) s = .next (s.withResponse (.ofHeader h)) →
      exec (.decode len b') s
        = .next (s.withResponse (.ofHeader { h with common := { h.common with retry := r, immediate := i } })))

/-- R74, R264: reserved bytes and bits are ignored on decode (bit 7 of byte 1 of a TMF_REQ among them), in a build with any legal
LAYOUT. For the default LAYOUT, `LayoutsCoverHeaderOnce` says which positions are reserved. -/
def Obligations.ReservedPositionsDoNotMatter : Prop :=
  ∀ (s : State) (len : Nat) (t : Tag) (b b' : Header48), s.lawful → (b.read 0).extractLsb' 0 6 = t.code →
    (∀ k i, k < 48 → i < 8 → named (s.rows t) k i = true → (b.read k).getLsbD i = (b'.read k).getLsbD i) →
    exec (.decode len b) s = exec (.decode len b') s

/-- R47, R264: `len` above 48, even above `IN_MAX`, acts as 48, and bytes at offset 48 and above are never read. -/
def Obligations.BytesPast48DoNotMatter : Prop :=
  ∀ (s : State) (port len : Nat) (q : Request) (tail : List Byte), 48 ≤ q.len → 48 ≤ len →
    step { s with pending := ⟨port, { q with len := len, inpRest := tail }⟩ :: s.pending }
      = step { s with pending := ⟨port, q⟩ :: s.pending }

/-- R3, R24, R49: nothing but the request, the registry and the build decides a response. -/
def Obligations.ResponseIsFunctionOfRequest : Prop :=
  ∀ (i : Instr) (s u : State), s.reg = u.reg → s.params = u.params → s.active < s.ports.length →
    u.active < u.ports.length →
    (∃ r : Response, exec i s = .next (s.withResponse r) ∧ exec i u = .next (u.withResponse r))
    ∨ (∃ f : Refusal, exec i s = .refused f ∧ exec i u = .refused f)

/-- R24, R299: after any response, error or not, the block is ready for the next request, which is independent of it. -/
def Obligations.EarlierRequestsLeaveNoTrace : Prop :=
  ∀ (i j : Instr) (s t : State), exec i s = .next t → exec j t = exec j s

/-- R20, R21, R298: the frame of all 25 instructions; they store nowhere but in the response of the active port. -/
def Obligations.InstructionsChangeOnlyTheirPort : Prop :=
  ∀ (i : Instr) (s t : State), exec i s = .next t →
    t.reg = s.reg ∧ t.params = s.params ∧ t.inReset = s.inReset ∧ t.pending = s.pending ∧ t.active = s.active
    ∧ t.ports.length = s.ports.length
    ∧ (∀ p, p ≠ s.active → t.ports[p]? = s.ports[p]?)
    ∧ (∀ p a, p ≠ s.active → t.readOut p a = s.readOut p a)

/-- R26, R40, R48 say which bytes of `OUT` a request produces, and so bound the offsets that it can give a value. That every other
offset (all of `OUT` after DECODE, LOOKUP, FLAG_GET and U24_DECODE) has no value afterwards is the model's reading, not the
rules' words (DEDUCED: notes/assumptions/8.md, 16.md). `OutHasValuesExactlyWhereProduced` says which offsets have a value, and the
statements on each instruction say the bytes. -/
def Obligations.OutHoldsOnlyWhatTheRequestProduced : Prop :=
  ∀ (i : Instr) (s t : State), exec i s = .next t →
    ∀ a, outWidth i ≤ a → t.readOut s.active a = .error (.signalNotValid s.active)

/-- R298: no partial result comes with an error, and nothing outside the port changes. A signal that is "not valid" has no value to
read (notes/assumptions/8.md). -/
def Obligations.ErrorsCarryNoOtherSignal : Prop :=
  ∀ (i : Instr) (s t : State) (st : Status), exec i s = .next t → t.readStatus s.active = .ok st → st ≠ .ok →
    t.readHeader s.active = .error (.signalNotValid s.active)
    ∧ t.readAhsLength s.active = .error (.signalNotValid s.active)
    ∧ t.readDataLength s.active = .error (.signalNotValid s.active)
    ∧ (∀ a, t.readOut s.active a = .error (.signalNotValid s.active))
    ∧ t.readInt s.active = .error (.signalNotValid s.active)
    ∧ t.readEntry s.active = .error (.signalNotValid s.active)
    ∧ t = { s with ports := s.ports.set s.active { response := some (.error st) } }

/-- R25 gives the block `N_PORTS` port pairs; that a request on any other port stops with a fault is the model's choice
(notes/assumptions/14.md). -/
def Obligations.MissingPortStopsTheRequest : Prop :=
  ∀ (i : Instr) (s : State), s.ports.length ≤ s.active →
    exec i s = .fault (.noSuchPort s.active)
    ∨ ∃ (b : Byte) (hi lo : BitVec 3), hi < lo ∧ exec i s = .refused (.noFlagField hi lo)
        ∧ (i = .flagGet b hi lo ∨ ∃ v : BitVec 32, i = .flagSet b hi lo v)

/-- R52: the outcome of two transactions on different ports is the same in both orders. -/
def Obligations.OrderOfPortsDoesNotMatter : Prop :=
  ∀ (s t : State) (a b : Presented), a.port ≠ b.port →
    Sys2Proof.core.run 2 { s with pending := [a, b] } = .next t →
    ∃ u : State, Sys2Proof.core.run 2 { s with pending := [b, a] } = .next u
      ∧ u.ports = t.ports ∧ u.reg = t.reg ∧ u.params = t.params ∧ u.pending = t.pending

/-- The invariant `State.Inv` of Sys2Proof/Safety.lean is kept by every step, from every state that has it. -/
def Obligations.StepKeepsGoodStates : Prop :=
  ∀ s t : State, s.Inv → step s = .next t → t.Inv

/-- `State.reset` has the invariant. -/
def Obligations.ResetIsGood : Prop :=
  State.reset.Inv

/-- R320 (and R31, R321): what reset leaves, and that the registry is kept until the next reset. A reset of a machine that
holds the registry's contents leaves them; that no port has a response is R31's "unspecified" as the model holds it
(notes/assumptions/8.md, 13.md). -/
def Obligations.ResponsesAreUnsetAfterReset : Prop :=
  (State.reset.reg = Registry.contents
    ∧ ∀ p, p < State.reset.ports.length → State.reset.readResponse p = .error (.noResponseYet p))
  ∧ (∀ s : State,
    s.beginReset.endReset.reg = Registry.contents ∧ s.beginReset.endReset.params = s.params
    ∧ s.beginReset.reg = s.reg
    ∧ s.beginReset.endReset.inReset = false
    ∧ ∀ p, p < s.ports.length → s.beginReset.endReset.readResponse p = .error (.noResponseYet p))
  ∧ (∀ s t : State, step s = .next t → t.reg = s.reg)

/-- R323 (and R21, R234): no request writes the registry or resets the block. -/
def Obligations.StepNeverChangesTheRegistry : Prop :=
  ∀ s t : State, step s = .next t →
    t.reg = s.reg ∧ t.params = s.params ∧ t.inReset = s.inReset ∧ t.ports.length = s.ports.length

/-- R322: no request is answered before the end of reset; once reset has ended, the step runs the request. -/
def Obligations.RequestsDuringResetAreRefused : Prop :=
  ∀ (s : State) (p : Presented) (rest : List Presented),
    step { s.beginReset with pending := p :: rest } = .refused .requestBeforeResetEnd
    ∧ ∀ i : Instr, decode p.request = .ok i →
        step { s.beginReset.endReset with pending := p :: rest }
          = exec i { s.beginReset.endReset with pending := rest, active := p.port }

/-- R80, R25: what `decode` gives for every request, code by code, and R81: `cmd = 0b111` spells no operation and is refused. That
the PDU rows come before DECODE and ENCODE is the model's reading of the table (notes/assumptions/1.md). -/
def Obligations.ReservedCommandIsRefused : Prop :=
  (∀ q : Request,
    (q.cmd = 0b000 →
      ((q.len < 48 ∨ ∀ t : Tag, (q.inp.read 0).extractLsb' 0 6 ≠ t.code) →
        Sys2Proof.decode q = .ok (.decode q.len q.inp))
      ∧ (∀ t : Tag, 48 ≤ q.len → (q.inp.read 0).extractLsb' 0 6 = t.code →
        Sys2Proof.decode q = .ok (pduOfWire t q.inp)))
    ∧ (q.cmd = 0b001 →
      ((∀ t : Tag, q.hdr.tag ≠ t.code) → Sys2Proof.decode q = .ok (.encode q.hdr))
      ∧ (∀ t : Tag, q.hdr.tag = t.code → Sys2Proof.decode q = .ok (pduOfTyped t q.hdr.common q.hdr.fields)))
    ∧ (q.cmd = 0b010 →
      Sys2Proof.decode q = .ok (.u24Decode ⟨[q.inp.read 0, q.inp.read 1, q.inp.read 2], rfl⟩))
    ∧ (q.cmd = 0b011 → Sys2Proof.decode q = .ok (.u24Encode q.v))
    ∧ (q.cmd = 0b100 → Sys2Proof.decode q = .ok (.flagGet (q.inp.read 0) q.hi q.lo))
    ∧ (q.cmd = 0b101 → Sys2Proof.decode q = .ok (.flagSet (q.inp.read 0) q.hi q.lo q.v))
    ∧ (q.cmd = 0b110 → Sys2Proof.decode q = .ok (.lookup q.op6))
    ∧ (q.cmd = 0b111 → Sys2Proof.decode q = .error .reservedCommand))
  ∧ (∀ (s : State) (p : Presented) (rest : List Presented), s.inReset = false → s.pending = p :: rest →
    p.request.cmd = 0b111 → step s = .refused .reservedCommand)

/-- R75, R80: no operand of an instruction is lost between the encoder and the decoder (the encoder is the model's own;
notes/assumptions/1.md). -/
def Obligations.DecodeOfEncodedInstruction : Prop :=
  ∀ (inMax : Nat) (i : Instr), i.wellFormed → Sys2Proof.decode (Sys2Proof.encode inMax i) = .ok i

/-- The decoder's answers are well formed; `hi < lo` is left to the meanings of the flag requests, which refuse it. -/
def Obligations.DecodedInstructionIsWellFormed : Prop :=
  ∀ (q : Request) (i : Instr), Sys2Proof.decode q = .ok i →
    i.wellFormed ∨ (q.hi < q.lo ∧ (q.cmd = 0b100 ∨ q.cmd = 0b101))

/-- The step takes the oldest request, makes its port the active one, and runs the decoded instruction, well formed or not; a
FLAG_GET or FLAG_SET request with `hi < lo` names no field, and the step refuses it (R102, R103). The queue and the active port
are the model's own (notes/assumptions/3.md, 4.md, 12.md). -/
def Obligations.StepRunsDecodedInstruction : Prop :=
  (∀ (s : State) (p : Presented) (rest : List Presented) (i : Instr), s.inReset = false → s.pending = p :: rest →
    Sys2Proof.decode p.request = .ok i →
    step s = exec i { s with pending := rest, active := p.port })
  ∧ (∀ (s : State) (p : Presented) (rest : List Presented), s.inReset = false → s.pending = p :: rest →
    (p.request.cmd = 0b100 ∨ p.request.cmd = 0b101) → p.request.hi < p.request.lo →
    step s = .refused (.noFlagField p.request.hi p.request.lo))
  ∧ (∀ s : State, s.pending = [] → step s = .next s)

/-- Words of the encodings of R62, R75 and R80, written out; the packing of bytes into a table word is the model's reading
(notes/assumptions/2.md). -/
def Obligations.WordsDecodeToTheirRows : Prop :=
  decodeTableWord 8 0x00 = some (.nopOut (.wire (Bytes.zero 48)))
  ∧ decodeTableWord 8 0x41 = some (.scsiCmd (.wire ((Bytes.zero 48).put 0 0b01000001)))
  ∧ decodeTableWord 8 0xB1 = some (.r2t (.wire ((Bytes.zero 48).put 0 0b10110001)))
  ∧ decodeTableWord 8 0xFF = some (.reject (.wire ((Bytes.zero 48).put 0 0b11111111)))
  ∧ Sys2Proof.decode { cmd := 0b110, op6 := 0x3F } = .ok (.lookup 0x3F)
  ∧ Sys2Proof.decode { cmd := 0b001, hdr := ⟨{ itt := 7 }, 0b100011, [(.csg, .num 1)]⟩ }
      = .ok (.loginRsp (.typed { itt := 7 } [(.csg, .num 1)]))
  ∧ Sys2Proof.decode { cmd := 0b010, inp := (Bytes.zero 48).put 2 0b10000001 } = .ok (.u24Decode ⟨[0, 0, 0b10000001], rfl⟩)
  ∧ Sys2Proof.decode { cmd := 0b011, v := 0xFFFFFF } = .ok (.u24Encode 0xFFFFFF)
  ∧ Sys2Proof.decode { cmd := 0b100, inp := (Bytes.zero 48).put 0 0b10001101, hi := 3, lo := 2 }
      = .ok (.flagGet 0b10001101 3 2)
  ∧ Sys2Proof.decode { cmd := 0b101, hi := 7, lo := 7, v := 1 } = .ok (.flagSet 0 7 7 1)
  ∧ Sys2Proof.decode { cmd := 0b000, len := 47 } = .ok (.decode 47 (Bytes.zero 48))
  ∧ Sys2Proof.decode { cmd := 0b111 } = .error .reservedCommand

/-- R290 gives the seven codes (the spec's own decision, D6) and says that 7 is never produced; R30: every transaction writes
the status. -/
def Obligations.StatusSignalCarriesTheKindOfTheResponse : Prop :=
  (Status.ok.code = 0 ∧ (∀ len, (Status.tooShort len).code = 1) ∧ (∀ op, (Status.unknownOpcode op).code = 2)
    ∧ (∀ attr, (Status.invalidAttribute attr).code = 3) ∧ (∀ f, (Status.unknownFunction f).code = 4)
    ∧ (∀ stage, (Status.invalidStage stage).code = 5) ∧ Status.rangeError.code = 6)
  ∧ (∀ a b : Status, a.code = b.code ↔ a.sameKind b)
  ∧ (∀ a : Status, a.code ≠ 7)
  ∧ (∀ (i : Instr) (s t : State), exec i s = .next t →
      ∃ st : Status, t.readStatus s.active = .ok st ∧ t.readStatusCode s.active = .ok st.code)

/-- R26, R40, R48, R298: which offsets of `OUT` have a value. That the others have none is the model's reading of "no value"
(DEDUCED: notes/assumptions/8.md, 16.md). -/
def Obligations.OutHasValuesExactlyWhereProduced : Prop :=
  ∀ (i : Instr) (s t : State), exec i s = .next t → ∀ a,
    (∃ v : Byte, t.readOut s.active a = .ok v) ↔ t.readStatus s.active = .ok .ok ∧ a < outWidth i

/-- R70: the table of kinds, column by column, written out. `bit` and `sub` are OR-ed into their byte, the others are stored. The range
check of a `u24` field is its "width in `hdr`" as ENCODE checks it (notes/assumptions/10.md). -/
def Obligations.KindsReadAndWriteTheirColumns : Prop :=
  ∀ b : Header48,
    (∀ o i, o < 48 → i < 8 →
      (Kind.bit o i).read b = .num (if (b.read o).getLsbD i then 1 else 0)
      ∧ (∀ v, (Kind.bit o i).fits (.num v) = true ↔ v ≤ 1)
      ∧ (∀ v, v ≤ 1 → ∀ k, ((Kind.bit o i).write (.num v) b).read k
          = if k = o then b.read o ||| BitVec.ofNat 8 v <<< i else b.read k))
    ∧ (∀ o hi lo, o < 48 → hi < 8 → lo ≤ hi →
      (Kind.sub o hi lo).read b = .num ((b.read o).toNat / 2 ^ lo % 2 ^ (hi - lo + 1))
      ∧ (∀ v, (Kind.sub o hi lo).fits (.num v) = true ↔ v < 2 ^ (hi - lo + 1))
      ∧ (∀ v, v < 2 ^ (hi - lo + 1) → ∀ k, ((Kind.sub o hi lo).write (.num v) b).read k
          = if k = o then b.read o ||| BitVec.ofNat 8 v <<< lo else b.read k))
    ∧ (∀ o, o + 1 ≤ 48 →
      (Kind.u8 o).read b = .num (b.read o).toNat
      ∧ (∀ v, (Kind.u8 o).fits (.num v) = true ↔ v < 0x100)
      ∧ (∀ v k, ((Kind.u8 o).write (.num v) b).read k = if k = o then BitVec.ofNat 8 v else b.read k))
    ∧ (∀ o, o + 2 ≤ 48 →
      (Kind.be16 o).read b = .num (halfAt b o).toNat
      ∧ (∀ v, (Kind.be16 o).fits (.num v) = true ↔ v < 0x10000)
      ∧ (∀ v k, ((Kind.be16 o).write (.num v) b).read k
          = if k = o then BitVec.ofNat 8 (v / 0x100) else if k = o + 1 then BitVec.ofNat 8 v else b.read k))
    ∧ (∀ o, o + 3 ≤ 48 →
      (Kind.u24 o).read b = .num (b.read o ++ b.read (o + 1) ++ b.read (o + 2)).toNat
      ∧ (∀ v, (Kind.u24 o).fits (.num v) = true ↔ v ≤ 0xFFFFFF)
      ∧ (∀ v k, ((Kind.u24 o).write (.num v) b).read k
          = if k = o then BitVec.ofNat 8 (v / 0x10000) else if k = o + 1 then BitVec.ofNat 8 (v / 0x100)
            else if k = o + 2 then BitVec.ofNat 8 v else b.read k))
    ∧ (∀ o, o + 4 ≤ 48 →
      (Kind.be32 o).read b = .num (wordAt b o).toNat
      ∧ (∀ v, (Kind.be32 o).fits (.num v) = true ↔ v < 0x100000000)
      ∧ (∀ v k, ((Kind.be32 o).write (.num v) b).read k
          = if k = o then BitVec.ofNat 8 (v / 0x1000000) else if k = o + 1 then BitVec.ofNat 8 (v / 0x10000)
            else if k = o + 2 then BitVec.ofNat 8 (v / 0x100) else if k = o + 3 then BitVec.ofNat 8 v else b.read k))
    ∧ (∀ o n, o + n ≤ 48 →
      (∃ a : List Byte, (Kind.bytes o n).read b = .bytes a ∧ a.length = n ∧ ∀ k, k < n → a[k]? = some (b.read (o + k)))
      ∧ (∀ a, (Kind.bytes o n).fits (.bytes a) = true ↔ a.length = n)
      ∧ (∀ a : List Byte, a.length = n → ∀ k, ((Kind.bytes o n).write (.bytes a) b).read k
          = if o ≤ k ∧ k < o + n then a.getD (k - o) 0 else b.read k))
end

