-- ==== Sys2Proof/Laws/Buffers.lean ====
section
/-!
SUPPORT. Laws of byte strings, of `MemRead` and `MemWrite`, and of output buffers: read after write, extensionality, and the
canonical form.
-/

namespace Sys2Proof

theorem Bytes.data_length {n : Nat} (b : Bytes n) : b.data.length = n := b.size

theorem Bytes.ext_read {n : Nat} {a b : Bytes n} (h : ∀ k, k < n → a.read k = b.read k) : a = b := by
  obtain ⟨d, rfl⟩ := a
  obtain ⟨e, he⟩ := b
  simp only [Bytes.mk.injEq]
  apply List.ext_getElem (by omega)
  intro i h1 h2
  simpa [Bytes.read, h1, h2] using h i h1

theorem Bytes.read_of_le {n : Nat} (b : Bytes n) {k : Nat} (h : n ≤ k) : b.read k = 0 := by
  obtain ⟨d, rfl⟩ := b
  simp [Bytes.read, h]

@[simp] theorem Bytes.read_zero (n k : Nat) : (Bytes.zero n).read k = 0 := by
  simp only [Bytes.read, Bytes.zero, List.getD_eq_getElem?_getD, List.getElem?_replicate]
  split <;> rfl

theorem Bytes.read_tabulate {n : Nat} (f : Nat → Byte) (k : Nat) :
    (Bytes.tabulate n f).read k = if k < n then f k else 0 := by
  by_cases h : k < n
  · simp [Bytes.read, Bytes.tabulate, h]
  · simp [Bytes.read, Bytes.tabulate, h]

/-- A read after a write: the byte written, at its offset; every other byte as before. -/
theorem Bytes.read_put {n : Nat} (b : Bytes n) (j k : Nat) (v : Byte) :
    (b.put j v).read k = if j = k ∧ k < n then v else b.read k := by
  obtain ⟨d, rfl⟩ := b
  simp only [Bytes.read, Bytes.put, List.getD_eq_getElem?_getD, List.getElem?_set]
  split <;> split <;> simp_all

theorem Bytes.tabulate_read {n : Nat} (b : Bytes n) : (Bytes.tabulate n fun k => b.read k) = b :=
  Bytes.ext_read fun k hk => by simp [Bytes.read_tabulate, hk]

/-- A byte string is the list of its bytes by offset. -/
theorem Bytes.data_eq {n : Nat} (b : Bytes n) : b.data = (List.range n).map fun k => b.read k := by
  conv_lhs => rw [← Bytes.tabulate_read b]
  rfl

theorem memRead_lt (b : Header48) (o n : Nat) : memRead b o n < 256 ^ n := by
  induction n with
  | zero => simp [memRead]
  | succ n ih =>
    have h := (b.read (o + n)).isLt
    simp only [memRead, pow_succ]
    omega

/-- `MemRead` is the sum of R10, one byte at a time. -/
theorem memRead_succ (b : Header48) (o n : Nat) :
    memRead b o (n + 1) = memRead b o n * 256 + (b.read (o + n)).toNat := rfl

theorem memRead_congr {b c : Header48} {o n : Nat} (h : ∀ k, k < n → b.read (o + k) = c.read (o + k)) :
    memRead b o n = memRead c o n := by
  induction n with
  | zero => rfl
  | succ n ih => simp only [memRead, ih fun k hk => h k (by omega), h n (by omega)]

/-- What a run of `put` at offsets `o, o+1, …` leaves at each offset. -/
theorem read_foldl_put (f : Nat → Byte) (o n : Nat) (out : Header48) (k : Nat) :
    ((List.range n).foldl (fun out i => out.put (o + i) (f i)) out).read k
      = if o ≤ k ∧ k < o + n ∧ k < 48 then f (k - o) else out.read k := by
  induction n with
  | zero => simp; intro h1 h2; omega
  | succ n ih =>
    rw [List.range_succ, List.foldl_append, List.foldl_cons, List.foldl_nil, Bytes.read_put, ih]
    by_cases h : o + n = k
    · subst h
      by_cases h2 : o + n < 48 <;> simp [h2]
    · have : (o ≤ k ∧ k < o + (n + 1) ∧ k < 48) ↔ (o ≤ k ∧ k < o + n ∧ k < 48) := by omega
      simp [h, this]

/-- `MemWrite` writes exactly the bytes of its field (R10). -/
theorem read_memWrite (out : Header48) (o n v k : Nat) :
    (memWrite out o n v).read k
      = if o ≤ k ∧ k < o + n ∧ k < 48 then BitVec.ofNat 8 (v >>> (8 * (n - 1 - (k - o)))) else out.read k :=
  read_foldl_put _ o n out k

/-- `MemWriteBytes` writes exactly the bytes of its field (R10). -/
theorem read_memWriteBytes (out : Header48) (o : Nat) (a : List Byte) (k : Nat) :
    (memWriteBytes out o a).read k
      = if o ≤ k ∧ k < o + a.length ∧ k < 48 then a.getD (k - o) 0 else out.read k :=
  read_foldl_put _ o a.length out k

@[simp] theorem length_memReadBytes (b : Header48) (o n : Nat) : (memReadBytes b o n).length = n := by
  simp [memReadBytes]

theorem getElem?_memReadBytes (b : Header48) (o n k : Nat) :
    (memReadBytes b o n)[k]? = if k < n then some (b.read (o + k)) else none := by
  by_cases h : k < n <;> simp [memReadBytes, h]

theorem Memory.read_ofBytes (bs : List Byte) (a : Nat) : Memory.read (Memory.ofBytes bs) a = bs[a]? := by
  have key : ∀ (l : List Byte) (j : Nat), j ≤ a →
      ((l.zipIdx j).map fun p => ((p.2, p.1) : Host.Cell)).find? (fun c => c.1 == a)
        = (l[a - j]?).map fun b => (a, b) := by
    intro l
    induction l with
    | nil => simp
    | cons x l ih =>
      intro j hj
      by_cases h : j = a
      · subst h; simp
      · have hs : a - j = (a - (j + 1)) + 1 := by omega
        rw [List.zipIdx_cons, List.map_cons, List.find?_cons_of_neg (by simpa using h), ih (j + 1) (by omega), hs,
          List.getElem?_cons_succ]
  have h0 := key bs 0 (Nat.zero_le a)
  simp only [Memory.read, Memory.ofBytes, h0, Nat.sub_zero, Option.map_map]
  cases bs[a]? <;> rfl

/-- Every output buffer a response is given is in canonical form. -/
theorem Memory.wf_ofBytes (bs : List Byte) : Memory.wf (Memory.ofBytes bs) := by
  simp only [Memory.wf, Memory.ofBytes, List.pairwise_map]
  have key : ∀ (l : List Byte) (j : Nat), (l.zipIdx j).Pairwise fun p q => p.2 < q.2 := by
    intro l
    induction l with
    | nil => simp
    | cons x l ih =>
      intro j
      rw [List.zipIdx_cons, List.pairwise_cons]
      refine ⟨?_, ih (j + 1)⟩
      rintro ⟨y, i⟩ hy
      have := List.le_snd_of_mem_zipIdx hy
      simp at this ⊢
      omega
  exact key bs 0

theorem Memory.wf_nil : Memory.wf [] := List.Pairwise.nil

/-- Every offset an output buffer lists is below the number of its bytes. -/
theorem Memory.lt_of_mem_ofBytes {bs : List Byte} {c : Host.Cell} (h : c ∈ Memory.ofBytes bs) : c.1 < bs.length := by
  simp only [Memory.ofBytes, List.mem_map] at h
  obtain ⟨⟨x, i⟩, hx, rfl⟩ := h
  have := List.snd_lt_of_mem_zipIdx hx
  simpa using this

end Sys2Proof
end

