-- ==== Sys2Proof/Laws/Fields.lean ====
section
/-!
SUPPORT. Laws of the field kinds (spec rule R70) and of a table's rows (R72, R73): which positions a kind reads and writes, a read
after a write, and a write of what was read.
-/

namespace Sys2Proof

open Machine (kindCovers)

/-- Byte strings are equal when their bits are. -/
theorem Bytes.ext_bit {n : Nat} {a b : Bytes n}
    (h : ∀ k i, k < n → i < 8 → (a.read k).getLsbD i = (b.read k).getLsbD i) : a = b :=
  Bytes.ext_read fun k hk => BitVec.eq_of_getLsbD_eq fun i hi => h k i hk hi

theorem getLsbD_fieldMask (w i : Nat) (hi : i < 8) : (fieldMask w).getLsbD i = decide (i < w) := by
  simp only [fieldMask, BitVec.getLsbD_ofNat, Nat.one_shiftLeft, Nat.testBit_two_pow_sub_one, hi, decide_true, Bool.true_and]

/-- The bits of a field that FLAG_GET reads (R102). -/
theorem testBit_readFlag (b : Byte) (hi lo j : Nat) :
    (readFlag b hi lo).toNat.testBit j = (decide (j < hi - lo + 1) && b.getLsbD (lo + j)) := by
  rw [BitVec.testBit_toNat]
  simp only [readFlag, BitVec.getLsbD_setWidth, BitVec.getLsbD_and, BitVec.getLsbD_ushiftRight]
  by_cases h8 : j < 8
  · simp only [getLsbD_fieldMask _ _ h8, show j < 32 by omega, decide_true, Bool.true_and, Bool.and_comm]
  · simp only [BitVec.getLsbD_of_ge b (lo + j) (by omega), Bool.false_and, Bool.and_false]

/-- The bits of a byte after FLAG_SET (R103). -/
theorem getLsbD_writeFlag (b : Byte) (hi lo : Nat) (v : Byte) (i : Nat) (h : i < 8) :
    (writeFlag b hi lo v).getLsbD i
      = if lo ≤ i ∧ i < lo + (hi - lo + 1) then v.getLsbD (i - lo) else b.getLsbD i := by
  simp only [writeFlag, BitVec.getLsbD_or, BitVec.getLsbD_and, BitVec.getLsbD_not, BitVec.getLsbD_shiftLeft,
    getLsbD_fieldMask _ (i - lo) (show i - lo < 8 by omega), h, decide_true, Bool.true_and]
  by_cases hl : i < lo
  · simp [hl, Nat.not_le.mpr hl]
  · by_cases hw : i - lo < hi - lo + 1
    · simp only [hl, hw, decide_true, decide_false, Bool.not_false, Bool.true_and, Bool.not_true, Bool.and_false,
        Bool.false_or, Bool.and_true]
      rw [if_pos (by omega)]
    · simp only [hl, hw, decide_false, Bool.not_false, Bool.true_and, Bool.and_false, Bool.or_false, Bool.and_true]
      rw [if_neg (by omega)]

/-- The bits of `MemRead`: byte `o + n - 1` holds the lowest (R10, R42). -/
theorem testBit_memRead (b : Header48) (o n j : Nat) :
    (memRead b o n).testBit j = (decide (j < 8 * n) && (b.read (o + (n - 1 - j / 8))).getLsbD (j % 8)) := by
  induction n generalizing j with
  | zero => simp [memRead]
  | succ n ih =>
    rw [memRead, show 256 = 2 ^ 8 from rfl, Nat.mul_comm, Nat.testBit_two_pow_mul_add _ (b.read (o + n)).isLt]
    by_cases h : j < 8
    · have h1 : j / 8 = 0 := by omega
      have h2 : j % 8 = j := by omega
      simp [h, h1, h2, BitVec.getLsbD, show j < 8 * (n + 1) by omega]
    · have h1 : j / 8 = (j - 8) / 8 + 1 := by omega
      have h2 : (j - 8) % 8 = j % 8 := by omega
      have h3 : n - 1 - (j - 8) / 8 = n + 1 - 1 - j / 8 := by omega
      have h4 : (j - 8 < 8 * n) ↔ (j < 8 * (n + 1)) := by omega
      simp [h, ih, h2, h3, h4]

/-- Writing what was read gives the bytes that were read. -/
theorem memRead_byte (b : Header48) (o n k : Nat) (h : k < n) :
    BitVec.ofNat 8 (memRead b o n >>> (8 * (n - 1 - k))) = b.read (o + k) := by
  apply BitVec.eq_of_getLsbD_eq
  intro i hi
  have h1 : (8 * (n - 1 - k) + i) / 8 = n - 1 - k := by omega
  have h2 : (8 * (n - 1 - k) + i) % 8 = i := by omega
  have h3 : n - 1 - (n - 1 - k) = k := by omega
  simp only [BitVec.getLsbD_ofNat, Nat.testBit_shiftRight, testBit_memRead, h1, h2, h3, hi,
    show 8 * (n - 1 - k) + i < 8 * n by omega, decide_true, Bool.true_and]

/-- `MemRead` after `MemWrite` of a value that fits (R10). -/
theorem memRead_memWrite (out : Header48) (o n v : Nat) (ho : o + n ≤ 48) (hv : v < 2 ^ (8 * n)) :
    memRead (memWrite out o n v) o n = v := by
  apply Nat.eq_of_testBit_eq
  intro j
  rw [testBit_memRead]
  by_cases h : j < 8 * n
  · have h1 : o + (n - 1 - j / 8) - o = n - 1 - j / 8 := by omega
    have h2 : 8 * (n - 1 - (n - 1 - j / 8)) + j % 8 = j := by omega
    rw [read_memWrite, if_pos (by omega), h1]
    simp only [BitVec.getLsbD_ofNat, Nat.testBit_shiftRight, h2, h, show j % 8 < 8 by omega, decide_true, Bool.true_and]
  · have : v.testBit j = false :=
      Nat.testBit_lt_two_pow (lt_of_lt_of_le hv (Nat.pow_le_pow_right (by decide) (by omega)))
    simp [h, this]

/-! ### One kind -/

/-- A write of a value that fits leaves every position outside the kind as it was. -/
theorem Kind.write_frame {kind : Kind} (hk : kind.inHeader) {v : Value} (hv : kind.fits v = true) (out : Header48)
    {k i : Nat} (hi : i < 8) (hc : kindCovers kind k i = false) :
    ((kind.write v out).read k).getLsbD i = (out.read k).getLsbD i := by
  cases kind <;> cases v <;> simp only [Kind.fits, Bool.false_eq_true, beq_iff_eq] at hv <;>
    simp only [kindCovers, Bool.and_eq_false_iff, beq_eq_false_iff_ne, decide_eq_false_iff_not, Nat.not_le, Nat.not_lt] at hc <;>
    simp only [Kind.write, Bytes.read_put, read_memWrite, read_memWriteBytes]
  case bit.num o j v =>
    split
    · next h =>
      rw [h.1, BitVec.getLsbD_or, getLsbD_writeFlag _ _ _ _ _ hi, if_neg (by omega)]
      simp
    · rfl
  case sub.num o a b v =>
    split
    · next h =>
      rw [h.1, BitVec.getLsbD_or, getLsbD_writeFlag _ _ _ _ _ hi, if_neg (by omega)]
      simp
    · rfl
  all_goals
    split
    · omega
    · rfl

/-- Reading depends on no position outside the kind. -/
theorem Kind.read_congr {kind : Kind} (hk : kind.inHeader) {b c : Header48}
    (h : ∀ k i, k < 48 → i < 8 → kindCovers kind k i = true → (b.read k).getLsbD i = (c.read k).getLsbD i) :
    kind.read b = kind.read c := by
  have byte : ∀ k, k < 48 → (∀ i, kindCovers kind k i = true) → b.read k = c.read k :=
    fun k hk hc => BitVec.eq_of_getLsbD_eq fun i hi => h k i hk hi (hc i)
  cases kind <;> simp only [Kind.read, Value.num.injEq, Value.bytes.injEq]
  case bit o j =>
    apply Nat.eq_of_testBit_eq
    intro i
    simp only [testBit_readFlag]
    by_cases h0 : i = 0
    · subst h0
      rw [Nat.add_zero j, h o j hk.1 hk.2 (by simp [kindCovers])]
    · simp [h0]
  case sub o a l =>
    apply Nat.eq_of_testBit_eq
    intro i
    simp only [testBit_readFlag]
    by_cases h0 : i < a - l + 1
    · rw [h o (l + i) hk.1 (by omega) (by simp [kindCovers]; omega)]
    · simp [h0]
  case bytes o n =>
    exact List.map_congr_left fun k hm => byte _ (by have := List.mem_range.mp hm; omega) fun i => by
      have := List.mem_range.mp hm
      simp [kindCovers]; omega
  all_goals
    exact memRead_congr fun k hm => byte _ (by omega) fun i => by simp [kindCovers]; omega

/-- A read after a write of a value that fits, over a buffer that holds 0 there (R73), gives the value. -/
theorem Kind.read_write {kind : Kind} (hk : kind.inHeader) {v : Value} (hv : kind.fits v = true) {out : Header48}
    (h0 : ∀ k i, k < 48 → i < 8 → kindCovers kind k i = true → (out.read k).getLsbD i = false) :
    kind.read (kind.write v out) = v := by
  cases kind <;> cases v <;> simp only [Kind.fits, Bool.false_eq_true, beq_iff_eq, Kind.width] at hv <;>
    try replace hv := of_decide_eq_true hv
  all_goals simp only [Kind.write, Kind.read, Value.num.injEq, Value.bytes.injEq]
  case bit.num o j v =>
    apply Nat.eq_of_testBit_eq
    intro i
    rw [testBit_readFlag, Bytes.read_put, if_pos ⟨rfl, hk.1⟩, BitVec.getLsbD_or]
    by_cases h : i = 0
    · subst h
      rw [Nat.add_zero j, h0 o j hk.1 hk.2 (by simp [kindCovers]), getLsbD_writeFlag _ _ _ _ _ hk.2, if_pos (by omega),
        BitVec.getLsbD_ofNat]
      simp
    · have : v.testBit i = false :=
        Nat.testBit_lt_two_pow (lt_of_lt_of_le hv (Nat.pow_le_pow_right (by decide) (Nat.one_le_iff_ne_zero.mpr h)))
      simp [this, h]
  case sub.num o a l v =>
    apply Nat.eq_of_testBit_eq
    intro i
    rw [testBit_readFlag, Bytes.read_put, if_pos ⟨rfl, hk.1⟩, BitVec.getLsbD_or]
    by_cases h : i < a - l + 1
    · rw [h0 o (l + i) hk.1 (by omega) (by simp [kindCovers]; omega), getLsbD_writeFlag _ _ _ _ _ (by omega), if_pos (by omega),
        BitVec.getLsbD_ofNat]
      simp [h, show i < 8 by omega]
    · have : v.testBit i = false :=
        Nat.testBit_lt_two_pow (lt_of_lt_of_le hv (Nat.pow_le_pow_right (by decide) (Nat.not_lt.mp h)))
      simp [this, h]
  case bytes.bytes o n a =>
    subst hv
    apply List.ext_getElem?
    intro k
    rw [getElem?_memReadBytes, read_memWriteBytes]
    by_cases h : k < a.length
    · rw [if_pos h, if_pos (by omega), Nat.add_sub_cancel_left, List.getD_eq_getElem?_getD, List.getElem?_eq_getElem h,
        Option.getD_some]
    · rw [if_neg h, List.getElem?_eq_none (by omega)]
  all_goals exact memRead_memWrite _ _ _ _ hk hv

/-- A write of what was read, over a buffer that holds 0 there, gives the positions of the kind back. -/
theorem Kind.write_read {kind : Kind} (hk : kind.inHeader) (b : Header48) {out : Header48}
    (h0 : ∀ k i, k < 48 → i < 8 → kindCovers kind k i = true → (out.read k).getLsbD i = false)
    {k i : Nat} (hi : i < 8) (hc : kindCovers kind k i = true) :
    ((kind.write (kind.read b) out).read k).getLsbD i = (b.read k).getLsbD i := by
  cases kind <;> simp only [kindCovers, Bool.and_eq_true, beq_iff_eq, decide_eq_true_eq] at hc <;>
    simp only [Kind.read, Kind.write, Bytes.read_put, read_memWrite, read_memWriteBytes, length_memReadBytes]
  case bit o j =>
    obtain ⟨rfl, rfl⟩ := hc
    rw [if_pos ⟨rfl, hk.1⟩, BitVec.getLsbD_or, h0 k i hk.1 hi (by simp [kindCovers]), getLsbD_writeFlag _ _ _ _ _ hi,
      if_pos (by omega), BitVec.getLsbD_ofNat, testBit_readFlag]
    simp
  case sub o a l =>
    obtain ⟨⟨rfl, h1⟩, h2⟩ := hc
    rw [if_pos ⟨rfl, hk.1⟩, BitVec.getLsbD_or, h0 k i hk.1 hi (by simp [kindCovers]; omega), getLsbD_writeFlag _ _ _ _ _ hi,
      if_pos (by omega), BitVec.getLsbD_ofNat, testBit_readFlag, show l + (i - l) = i by omega]
    simp [show i - l < 8 by omega, show i - l < a - l + 1 by omega]
  case bytes o n =>
    rw [if_pos (by omega), List.getD_eq_getElem?_getD, getElem?_memReadBytes, if_pos (by omega), Option.getD_some,
      show o + (k - o) = k by omega]
  all_goals
    rw [if_pos (by omega), memRead_byte _ _ _ _ (by omega)]
    congr 2
    omega

/-- What is read fits the kind. -/
theorem Kind.fits_read (kind : Kind) (b : Header48) : kind.fits (kind.read b) = true := by
  have flag : ∀ x : Byte, ∀ a l, (readFlag x a l).toNat < 2 ^ (a - l + 1) := fun x a l =>
    Nat.lt_pow_two_of_testBit _ fun j hj => by simp [testBit_readFlag, show ¬ j < a - l + 1 by omega]
  cases kind <;> simp only [Kind.read, Kind.fits, Kind.width, length_memReadBytes, beq_self_eq_true] <;> apply decide_eq_true
  case bit o j => simpa using flag (b.read o) j j
  case sub o a l => exact flag _ _ _
  all_goals exact memRead_lt _ _ _

/-- Kinds that are apart share no position. -/
theorem Kind.not_covers_of_apart {a b : Kind} (ha : a.inHeader) (hb : b.inHeader) (h : a.apart b) {k i : Nat} (hi : i < 8)
    (hc : kindCovers a k i = true) : kindCovers b k i = false := by
  have pos : ∀ c : Kind, c.inHeader → kindCovers c k i = true →
      c.start ≤ 8 * k + (7 - i) ∧ 8 * k + (7 - i) < c.start + c.width := by
    intro c hc h
    cases c <;> simp only [kindCovers, Bool.and_eq_true, beq_iff_eq, decide_eq_true_eq] at h <;>
      simp only [Kind.start, Kind.width, Kind.inHeader] at hc ⊢ <;> omega
  by_contra hb'
  have h1 := pos a ha hc
  have h2 := pos b hb (by simpa using hb')
  simp only [Kind.apart] at h
  omega

/-- Being apart does not depend on the order. -/
theorem Kind.apart_symm {a b : Kind} (h : a.apart b) : b.apart a := h.symm

/-! ### The rows of a table -/

/-- What is read by a table's rows fits the rows. -/
theorem fieldsFit_readFields (rows : List Row) (b : Header48) : fieldsFit rows (readFields rows b) = true := by
  induction rows with
  | nil => rfl
  | cons r rows ih => simpa [readFields, fieldsFit, Kind.fits_read] using ih

/-- A header with every field omitted fits the rows (R82). -/
theorem fieldsFit_zeroFields (rows : List Row) : fieldsFit rows (zeroFields rows) = true := by
  induction rows with
  | nil => rfl
  | cons r rows ih =>
    have : r.kind.fits r.kind.zero = true := by cases r.kind <;> simp [Kind.fits, Kind.zero]
    simpa [zeroFields, fieldsFit, this] using ih

theorem fieldsFit_cons {r : Row} {rows : List Row} {fields : Fields} (h : fieldsFit (r :: rows) fields = true) :
    ∃ v rest, fields = (r.field, v) :: rest ∧ r.kind.fits v = true ∧ fieldsFit rows rest = true := by
  cases fields with
  | nil => simp [fieldsFit] at h
  | cons p rest =>
    simp only [fieldsFit, Bool.and_eq_true, beq_iff_eq] at h
    exact ⟨p.2, rest, by rw [h.1.1], h.1.2, h.2⟩

/-- Reading a table's rows depends on no position outside them (R72, R74). -/
theorem readFields_congr {rows : List Row} (hin : ∀ r ∈ rows, r.kind.inHeader) {b c : Header48}
    (h : ∀ r ∈ rows, ∀ k i, k < 48 → i < 8 → kindCovers r.kind k i = true →
      (b.read k).getLsbD i = (c.read k).getLsbD i) : readFields rows b = readFields rows c :=
  List.map_congr_left fun r hr => by rw [Kind.read_congr (hin r hr) (h r hr)]

/-- Writing a table's rows leaves every position outside them as it was (R73). -/
theorem writeFields_frame {rows : List Row} (hin : ∀ r ∈ rows, r.kind.inHeader) {fields : Fields}
    (hf : fieldsFit rows fields = true) (out : Header48) {k i : Nat} (hi : i < 8)
    (hc : ∀ r ∈ rows, kindCovers r.kind k i = false) :
    ((writeFields rows fields out).read k).getLsbD i = (out.read k).getLsbD i := by
  induction rows generalizing fields out with
  | nil => cases fields <;> rfl
  | cons r rows ih =>
    obtain ⟨v, rest, rfl, hv, hrest⟩ := fieldsFit_cons hf
    simp only [List.mem_cons, forall_eq_or_imp] at hin hc
    rw [writeFields, ih hin.2 hrest _ hc.2, Kind.write_frame hin.1 hv _ hi hc.1]

/-- The positions of the rows that come after a row are still 0 once it is written. -/
theorem Kind.write_zero_of_apart {kind : Kind} (hk : kind.inHeader) {v : Value} (hv : kind.fits v = true) {out : Header48}
    {rows : List Row} (hin : ∀ r ∈ rows, r.kind.inHeader) (hap : ∀ r ∈ rows, kind.apart r.kind)
    (h0 : ∀ r ∈ rows, ∀ k i, k < 48 → i < 8 → kindCovers r.kind k i = true → (out.read k).getLsbD i = false) :
    ∀ r ∈ rows, ∀ k i, k < 48 → i < 8 → kindCovers r.kind k i = true →
      ((kind.write v out).read k).getLsbD i = false := by
  intro r hr k i hk48 hi hc
  rw [Kind.write_frame hk hv _ hi (Kind.not_covers_of_apart (hin r hr) hk (hap r hr).symm hi hc)]
  exact h0 r hr k i hk48 hi hc

/-- Reading a table's rows after writing them, over a buffer that holds 0 there, gives the fields written (R72, R73). -/
theorem readFields_writeFields {rows : List Row} (hin : ∀ r ∈ rows, r.kind.inHeader)
    (hap : (rows.map (·.kind)).Pairwise Kind.apart) {fields : Fields} (hf : fieldsFit rows fields = true) {out : Header48}
    (h0 : ∀ r ∈ rows, ∀ k i, k < 48 → i < 8 → kindCovers r.kind k i = true → (out.read k).getLsbD i = false) :
    readFields rows (writeFields rows fields out) = fields := by
  induction rows generalizing fields out with
  | nil => cases fields <;> simp_all [fieldsFit, readFields]
  | cons r rows ih =>
    obtain ⟨v, rest, rfl, hv, hrest⟩ := fieldsFit_cons hf
    simp only [List.map_cons, List.pairwise_cons, List.mem_map, forall_exists_index, and_imp, forall_apply_eq_imp_iff₂] at hap
    simp only [List.mem_cons, forall_eq_or_imp] at hin h0
    have h1 := Kind.write_zero_of_apart hin.1 hv hin.2 hap.1 h0.2
    have hr : r.kind.read (writeFields rows rest (r.kind.write v out)) = v := by
      rw [← Kind.read_write hin.1 hv h0.1]
      refine Kind.read_congr hin.1 fun k i _ hi hc => ?_
      rw [writeFields_frame hin.2 hrest _ hi fun q hq => Kind.not_covers_of_apart hin.1 (hin.2 q hq) (hap.1 q hq) hi hc,
        Kind.read_write hin.1 hv h0.1]
    have htail := ih hin.2 hap.2 hrest h1
    simp only [readFields] at htail
    simp only [readFields, List.map_cons, writeFields, hr, htail]

/-- Writing what a table's rows read, over a buffer that holds 0 there, gives the positions of the rows back (R72, R73). -/
theorem writeFields_readFields {rows : List Row} (hin : ∀ r ∈ rows, r.kind.inHeader)
    (hap : (rows.map (·.kind)).Pairwise Kind.apart) (b : Header48) {out : Header48}
    (h0 : ∀ r ∈ rows, ∀ k i, k < 48 → i < 8 → kindCovers r.kind k i = true → (out.read k).getLsbD i = false)
    {r : Row} (hr : r ∈ rows) {k i : Nat} (hi : i < 8) (hc : kindCovers r.kind k i = true) :
    ((writeFields rows (readFields rows b) out).read k).getLsbD i = (b.read k).getLsbD i := by
  induction rows generalizing out with
  | nil => cases hr
  | cons q rows ih =>
    simp only [List.map_cons, List.pairwise_cons, List.mem_map, forall_exists_index, and_imp, forall_apply_eq_imp_iff₂] at hap
    simp only [List.mem_cons, forall_eq_or_imp] at hin h0 hr
    have hq := Kind.fits_read q.kind b
    simp only [readFields, List.map_cons, writeFields]
    rcases hr with rfl | hr
    · rw [← Kind.write_read hin.1 b h0.1 hi hc]
      exact writeFields_frame hin.2 (fieldsFit_readFields rows b) _ hi fun p hp =>
        Kind.not_covers_of_apart hin.1 (hin.2 p hp) (hap.1 p hp) hi hc
    · exact ih hin.2 hap.2 (Kind.write_zero_of_apart hin.1 hq hin.2 hap.1 h0.2) hr

/-- The integer that decoded fields give a row's name, where no two rows have one name. -/
theorem numOf_readFields {rows : List Row} (hn : (rows.map (·.field)).Nodup) {r : Row} (hr : r ∈ rows) (b : Header48) :
    numOf (readFields rows b) r.field
      = match r.kind.read b with
        | .num v => some v
        | .bytes _ => none := by
  have key : (readFields rows b).find? (fun p => p.1 == r.field) = some (r.field, r.kind.read b) := by
    induction rows with
    | nil => cases hr
    | cons q rows ih =>
      simp only [List.map_cons, List.nodup_cons, List.mem_map, not_exists, not_and] at hn
      simp only [readFields, List.map_cons] at ih ⊢
      rcases List.mem_cons.mp hr with rfl | hr
      · simp
      · rw [List.find?_cons_of_neg (by simpa using fun h => hn.1 r hr h.symm)]
        exact ih hn.2 hr
  rw [numOf, key]
  cases r.kind.read b <;> rfl

end Sys2Proof
end

