-- ==== Sys2Proof/Laws/State.lean ====
section
/-!
SUPPORT. One lemma per field per update of the state, and per signal per kind of response, so that no proof unfolds a record
update.
-/

namespace Sys2Proof.Machine

variable (s : State) (r : Response)

@[simp] theorem State.withResponse_reg : (s.withResponse r).reg = s.reg := rfl
@[simp] theorem State.withResponse_params : (s.withResponse r).params = s.params := rfl
@[simp] theorem State.withResponse_inReset : (s.withResponse r).inReset = s.inReset := rfl
@[simp] theorem State.withResponse_ports : (s.withResponse r).ports = s.ports.set s.active { response := some r } := rfl
@[simp] theorem State.withResponse_pending : (s.withResponse r).pending = s.pending := rfl
@[simp] theorem State.withResponse_active : (s.withResponse r).active = s.active := rfl

@[simp] theorem State.beginReset_reg : s.beginReset.reg = s.reg := rfl
@[simp] theorem State.beginReset_params : s.beginReset.params = s.params := rfl
@[simp] theorem State.beginReset_inReset : s.beginReset.inReset = true := rfl
@[simp] theorem State.beginReset_ports : s.beginReset.ports = s.ports := rfl
@[simp] theorem State.beginReset_pending : s.beginReset.pending = s.pending := rfl
@[simp] theorem State.beginReset_active : s.beginReset.active = s.active := rfl

@[simp] theorem State.endReset_reg : s.endReset.reg = Registry.contents := rfl
@[simp] theorem State.endReset_params : s.endReset.params = s.params := rfl
@[simp] theorem State.endReset_inReset : s.endReset.inReset = false := rfl
@[simp] theorem State.endReset_ports : s.endReset.ports = s.ports.map fun _ => {} := rfl
@[simp] theorem State.endReset_pending : s.endReset.pending = [] := rfl
@[simp] theorem State.endReset_active : s.endReset.active = s.active := rfl

@[simp] theorem State.withFetchWord_reg (nbits w : Nat) : (s.withFetchWord nbits w).reg = s.reg := rfl
@[simp] theorem State.withFetchWord_params (nbits w : Nat) : (s.withFetchWord nbits w).params = s.params := rfl
@[simp] theorem State.withFetchWord_inReset (nbits w : Nat) : (s.withFetchWord nbits w).inReset = false := rfl
@[simp] theorem State.withFetchWord_ports (nbits w : Nat) : (s.withFetchWord nbits w).ports = s.ports := rfl
@[simp] theorem State.withFetchWord_pending (nbits w : Nat) : (s.withFetchWord nbits w).pending = ⟨0, requestOfWord s.params.layout nbits w⟩ :: s.pending := rfl
@[simp] theorem State.withFetchWord_active (nbits w : Nat) : (s.withFetchWord nbits w).active = s.active := rfl

@[simp] theorem State.rows_withResponse (t : Tag) : (s.withResponse r).rows t = s.rows t := rfl

@[simp] theorem State.reset_reg : State.reset.reg = Registry.contents := rfl
@[simp] theorem State.reset_inReset : State.reset.inReset = false := rfl
@[simp] theorem State.reset_pending : State.reset.pending = [] := rfl
@[simp] theorem State.reset_active : State.reset.active = 0 := rfl
@[simp] theorem State.reset_layout : State.reset.params.layout = Layout.spec := rfl
@[simp] theorem State.reset_tmfBit7 : State.reset.params.tmfBit7 = false := rfl
@[simp] theorem State.reset_inMax : State.reset.params.inMax = Config.inMaxExtra + 48 := rfl
@[simp] theorem State.reset_lenW : State.reset.params.lenW = Config.lenWExtra + 6 := rfl
@[simp] theorem State.reset_ports : State.reset.ports = List.replicate (Config.nPortsExtra + 1) {} := rfl

variable (st : Status) (h : Header 24) (bs : List Byte) (x : BitVec 32) (e : RegEntry)

@[simp] theorem Response.error_status : (Response.error st).status = st := rfl
@[simp] theorem Response.error_hdrOut : (Response.error st).hdrOut = none := rfl
@[simp] theorem Response.error_ahsLength : (Response.error st).ahsLength = none := rfl
@[simp] theorem Response.error_dataLength : (Response.error st).dataLength = none := rfl
@[simp] theorem Response.error_out : (Response.error st).out = [] := rfl
@[simp] theorem Response.error_r : (Response.error st).r = none := rfl
@[simp] theorem Response.error_entry : (Response.error st).entry = none := rfl

@[simp] theorem Response.ofHeader_status : (Response.ofHeader h).status = .ok := rfl
@[simp] theorem Response.ofHeader_hdrOut : (Response.ofHeader h).hdrOut = some h := rfl
@[simp] theorem Response.ofHeader_ahsLength : (Response.ofHeader h).ahsLength = some h.common.ahsLength := rfl
@[simp] theorem Response.ofHeader_dataLength : (Response.ofHeader h).dataLength = some h.common.dataLength := rfl
@[simp] theorem Response.ofHeader_out : (Response.ofHeader h).out = [] := rfl
@[simp] theorem Response.ofHeader_r : (Response.ofHeader h).r = none := rfl
@[simp] theorem Response.ofHeader_entry : (Response.ofHeader h).entry = none := rfl

@[simp] theorem Response.ofBytes_status : (Response.ofBytes bs).status = .ok := rfl
@[simp] theorem Response.ofBytes_hdrOut : (Response.ofBytes bs).hdrOut = none := rfl
@[simp] theorem Response.ofBytes_ahsLength : (Response.ofBytes bs).ahsLength = none := rfl
@[simp] theorem Response.ofBytes_dataLength : (Response.ofBytes bs).dataLength = none := rfl
@[simp] theorem Response.ofBytes_out : (Response.ofBytes bs).out = Memory.ofBytes bs := rfl
@[simp] theorem Response.ofBytes_r : (Response.ofBytes bs).r = none := rfl
@[simp] theorem Response.ofBytes_entry : (Response.ofBytes bs).entry = none := rfl

@[simp] theorem Response.ofInt_status : (Response.ofInt x).status = .ok := rfl
@[simp] theorem Response.ofInt_hdrOut : (Response.ofInt x).hdrOut = none := rfl
@[simp] theorem Response.ofInt_ahsLength : (Response.ofInt x).ahsLength = none := rfl
@[simp] theorem Response.ofInt_dataLength : (Response.ofInt x).dataLength = none := rfl
@[simp] theorem Response.ofInt_out : (Response.ofInt x).out = [] := rfl
@[simp] theorem Response.ofInt_r : (Response.ofInt x).r = some x := rfl
@[simp] theorem Response.ofInt_entry : (Response.ofInt x).entry = none := rfl

@[simp] theorem Response.ofEntry_status : (Response.ofEntry e).status = .ok := rfl
@[simp] theorem Response.ofEntry_hdrOut : (Response.ofEntry e).hdrOut = none := rfl
@[simp] theorem Response.ofEntry_ahsLength : (Response.ofEntry e).ahsLength = none := rfl
@[simp] theorem Response.ofEntry_dataLength : (Response.ofEntry e).dataLength = none := rfl
@[simp] theorem Response.ofEntry_out : (Response.ofEntry e).out = [] := rfl
@[simp] theorem Response.ofEntry_r : (Response.ofEntry e).r = none := rfl
@[simp] theorem Response.ofEntry_entry : (Response.ofEntry e).entry = some e := rfl

end Sys2Proof.Machine
end

