-- ==== Sys2Proof/Laws/Tables.lean ====
section
/-!
SUPPORT. The opcode map, the registry and the layout tables, read entry by entry.
-/

namespace Sys2Proof

@[simp] theorem Tag.ofCode_code (t : Tag) : Tag.ofCode t.code = some t := by cases t <;> rfl

/-- A code selects a tag only when it is the tag's own. -/
theorem Tag.ofCode_eq_some {c : BitVec 6} {t : Tag} : Tag.ofCode c = some t ↔ c = t.code := by
  have key : ∀ c : BitVec 6, ∀ u ∈ Tag.ofCode c, c = u.code := by decide
  exact ⟨key c t, fun h => h ▸ Tag.ofCode_code t⟩

theorem Tag.mem_all (t : Tag) : t ∈ Tag.all := by cases t <;> decide

/-- What the registry of R231 answers for each of the 64 addresses. -/
theorem Registry.entry_contents (op : BitVec 6) :
    Registry.contents.entry op
      = match Tag.ofCode op with
        | some t => ⟨true, t.code, t.direction⟩
        | none => ⟨false, 0, .initiatorToTarget⟩ := by
  revert op
  decide

@[simp] theorem Registry.entry_contents_code (t : Tag) :
    Registry.contents.entry t.code = ⟨true, t.code, t.direction⟩ := by
  rw [Registry.entry_contents, Tag.ofCode_code]

theorem Registry.valid_contents_iff (op : BitVec 6) :
    (Registry.contents.entry op).valid = true ↔ ∃ t, Tag.ofCode op = some t := by
  rw [Registry.entry_contents]
  cases Tag.ofCode op <;> simp

@[simp] theorem Layout.rows_nopOut : Layout.spec.rows .nopOut = Layout.nopOut := rfl
@[simp] theorem Layout.rows_scsiCmd : Layout.spec.rows .scsiCmd = Layout.scsiCmd := rfl
@[simp] theorem Layout.rows_tmfReq : Layout.spec.rows .tmfReq = Layout.tmfReq := rfl
@[simp] theorem Layout.rows_loginReq : Layout.spec.rows .loginReq = Layout.loginReq := rfl
@[simp] theorem Layout.rows_textReq : Layout.spec.rows .textReq = Layout.textReq := rfl
@[simp] theorem Layout.rows_dataOut : Layout.spec.rows .dataOut = Layout.dataOut := rfl
@[simp] theorem Layout.rows_logoutReq : Layout.spec.rows .logoutReq = Layout.logoutReq := rfl
@[simp] theorem Layout.rows_snack : Layout.spec.rows .snack = Layout.snack := rfl
@[simp] theorem Layout.rows_nopIn : Layout.spec.rows .nopIn = Layout.nopIn := rfl
@[simp] theorem Layout.rows_scsiRsp : Layout.spec.rows .scsiRsp = Layout.scsiRsp := rfl
@[simp] theorem Layout.rows_tmfRsp : Layout.spec.rows .tmfRsp = Layout.tmfRsp := rfl
@[simp] theorem Layout.rows_loginRsp : Layout.spec.rows .loginRsp = Layout.loginRsp := rfl
@[simp] theorem Layout.rows_textRsp : Layout.spec.rows .textRsp = Layout.textRsp := rfl
@[simp] theorem Layout.rows_dataIn : Layout.spec.rows .dataIn = Layout.dataIn := rfl
@[simp] theorem Layout.rows_logoutRsp : Layout.spec.rows .logoutRsp = Layout.logoutRsp := rfl
@[simp] theorem Layout.rows_r2t : Layout.spec.rows .r2t = Layout.r2t := rfl
@[simp] theorem Layout.rows_async : Layout.spec.rows .async = Layout.async := rfl
@[simp] theorem Layout.rows_reject : Layout.spec.rows .reject = Layout.reject := rfl

/-- The default tables are of the form of R70 and R71. -/
theorem Layout.lawful_spec : Layout.spec.lawful := by
  intro t
  cases t <;> refine ⟨?_, by decide, by decide, by decide⟩
  case nopOut => simp [Layout.nopOut, Kind.inHeader]
  case scsiCmd => simp [Layout.scsiCmd, Kind.inHeader]
  case tmfReq => simp [Layout.tmfReq, Kind.inHeader]
  case loginReq => simp [Layout.loginReq, Kind.inHeader]
  case textReq => simp [Layout.textReq, Kind.inHeader]
  case dataOut => simp [Layout.dataOut, Kind.inHeader]
  case logoutReq => simp [Layout.logoutReq, Kind.inHeader]
  case snack => simp [Layout.snack, Kind.inHeader]
  case nopIn => simp [Layout.nopIn, Kind.inHeader]
  case scsiRsp => simp [Layout.scsiRsp, Kind.inHeader]
  case tmfRsp => simp [Layout.tmfRsp, Kind.inHeader]
  case loginRsp => simp [Layout.loginRsp, Kind.inHeader]
  case textRsp => simp [Layout.textRsp, Kind.inHeader]
  case dataIn => simp [Layout.dataIn, Kind.inHeader]
  case logoutRsp => simp [Layout.logoutRsp, Kind.inHeader]
  case r2t => simp [Layout.r2t, Kind.inHeader]
  case async => simp [Layout.async, Kind.inHeader]
  case reject => simp [Layout.reject, Kind.inHeader]

/-! The fields of a record fit the default table of its variant. -/

theorem NopOutFields.fields_fit (v : NopOutFields) : fieldsFit Layout.nopOut v.fields = true := by
  simp [Layout.nopOut, NopOutFields.fields, fieldsFit, Kind.fits, Kind.width, v.final.toNat_lt, v.lun.size, v.ttt.isLt,
    v.cmdsn.isLt, v.expStatsn.isLt]

theorem ScsiCmdFields.fields_fit (v : ScsiCmdFields) : fieldsFit Layout.scsiCmd v.fields = true := by
  simp [Layout.scsiCmd, ScsiCmdFields.fields, fieldsFit, Kind.fits, Kind.width, v.final.toNat_lt, v.read.toNat_lt,
    v.write.toNat_lt, v.attr.isLt, v.lun.size, v.expXferLength.isLt, v.cmdsn.isLt, v.expStatsn.isLt, v.cdb.size]

theorem TmfReqFields.fields_fit (v : TmfReqFields) : fieldsFit Layout.tmfReq v.fields = true := by
  simp [Layout.tmfReq, TmfReqFields.fields, fieldsFit, Kind.fits, Kind.width, v.function.isLt, v.lun.size, v.rtt.isLt,
    v.cmdsn.isLt, v.expStatsn.isLt, v.refcmdsn.isLt, v.expDatasn.isLt]

theorem LoginReqFields.fields_fit (v : LoginReqFields) : fieldsFit Layout.loginReq v.fields = true := by
  simp [Layout.loginReq, LoginReqFields.fields, fieldsFit, Kind.fits, Kind.width, v.transit.toNat_lt, v.cont.toNat_lt,
    v.csg.isLt, v.nsg.isLt, v.maxVersion.isLt, v.minVersion.isLt, v.isid.size, v.tsih.isLt, v.cid.isLt, v.cmdsn.isLt,
    v.expStatsn.isLt]

theorem TextReqFields.fields_fit (v : TextReqFields) : fieldsFit Layout.textReq v.fields = true := by
  simp [Layout.textReq, TextReqFields.fields, fieldsFit, Kind.fits, Kind.width, v.final.toNat_lt, v.cont.toNat_lt,
    v.ttt.isLt, v.cmdsn.isLt, v.expStatsn.isLt]

theorem DataOutFields.fields_fit (v : DataOutFields) : fieldsFit Layout.dataOut v.fields = true := by
  simp [Layout.dataOut, DataOutFields.fields, fieldsFit, Kind.fits, Kind.width, v.final.toNat_lt, v.lun.size,
    v.ttt.isLt, v.expStatsn.isLt, v.datasn.isLt, v.bufferOffset.isLt]

theorem LogoutReqFields.fields_fit (v : LogoutReqFields) : fieldsFit Layout.logoutReq v.fields = true := by
  simp [Layout.logoutReq, LogoutReqFields.fields, fieldsFit, Kind.fits, Kind.width, v.final.toNat_lt, v.reason.isLt,
    v.cid.isLt, v.cmdsn.isLt, v.expStatsn.isLt]

theorem SnackFields.fields_fit (v : SnackFields) : fieldsFit Layout.snack v.fields = true := by
  simp [Layout.snack, SnackFields.fields, fieldsFit, Kind.fits, Kind.width, v.final.toNat_lt, v.snackType.isLt,
    v.ttt.isLt, v.expStatsn.isLt, v.begrun.isLt, v.runlength.isLt]

theorem NopInFields.fields_fit (v : NopInFields) : fieldsFit Layout.nopIn v.fields = true := by
  simp [Layout.nopIn, NopInFields.fields, fieldsFit, Kind.fits, Kind.width, v.final.toNat_lt, v.lun.size, v.ttt.isLt,
    v.statsn.isLt, v.expCmdsn.isLt, v.maxCmdsn.isLt]

theorem ScsiRspFields.fields_fit (v : ScsiRspFields) : fieldsFit Layout.scsiRsp v.fields = true := by
  simp [Layout.scsiRsp, ScsiRspFields.fields, fieldsFit, Kind.fits, Kind.width, v.final.toNat_lt,
    v.bidiOverflow.toNat_lt, v.bidiUnderflow.toNat_lt, v.overflow.toNat_lt, v.underflow.toNat_lt, v.response.isLt,
    v.cmdStatus.isLt, v.snackTag.isLt, v.statsn.isLt, v.expCmdsn.isLt, v.maxCmdsn.isLt, v.expDatasn.isLt,
    v.biResidualCount.isLt, v.residualCount.isLt]

theorem TmfRspFields.fields_fit (v : TmfRspFields) : fieldsFit Layout.tmfRsp v.fields = true := by
  simp [Layout.tmfRsp, TmfRspFields.fields, fieldsFit, Kind.fits, Kind.width, v.final.toNat_lt, v.response.isLt,
    v.statsn.isLt, v.expCmdsn.isLt, v.maxCmdsn.isLt]

theorem LoginRspFields.fields_fit (v : LoginRspFields) : fieldsFit Layout.loginRsp v.fields = true := by
  simp [Layout.loginRsp, LoginRspFields.fields, fieldsFit, Kind.fits, Kind.width, v.transit.toNat_lt, v.cont.toNat_lt,
    v.csg.isLt, v.nsg.isLt, v.maxVersion.isLt, v.activeVersion.isLt, v.isid.size, v.tsih.isLt, v.statsn.isLt,
    v.expCmdsn.isLt, v.maxCmdsn.isLt, v.statusClass.isLt, v.statusDetail.isLt]

theorem TextRspFields.fields_fit (v : TextRspFields) : fieldsFit Layout.textRsp v.fields = true := by
  simp [Layout.textRsp, TextRspFields.fields, fieldsFit, Kind.fits, Kind.width, v.final.toNat_lt, v.cont.toNat_lt,
    v.ttt.isLt, v.statsn.isLt, v.expCmdsn.isLt, v.maxCmdsn.isLt]

theorem DataInFields.fields_fit (v : DataInFields) : fieldsFit Layout.dataIn v.fields = true := by
  simp [Layout.dataIn, DataInFields.fields, fieldsFit, Kind.fits, Kind.width, v.final.toNat_lt, v.ack.toNat_lt,
    v.overflow.toNat_lt, v.underflow.toNat_lt, v.statusPresent.toNat_lt, v.cmdStatus.isLt, v.lun.size, v.ttt.isLt,
    v.statsn.isLt, v.expCmdsn.isLt, v.maxCmdsn.isLt, v.datasn.isLt, v.bufferOffset.isLt, v.residualCount.isLt]

theorem LogoutRspFields.fields_fit (v : LogoutRspFields) : fieldsFit Layout.logoutRsp v.fields = true := by
  simp [Layout.logoutRsp, LogoutRspFields.fields, fieldsFit, Kind.fits, Kind.width, v.final.toNat_lt, v.response.isLt,
    v.statsn.isLt, v.expCmdsn.isLt, v.maxCmdsn.isLt, v.time2wait.isLt, v.time2retain.isLt]

theorem R2tFields.fields_fit (v : R2tFields) : fieldsFit Layout.r2t v.fields = true := by
  simp [Layout.r2t, R2tFields.fields, fieldsFit, Kind.fits, Kind.width, v.final.toNat_lt, v.lun.size, v.ttt.isLt,
    v.statsn.isLt, v.expCmdsn.isLt, v.maxCmdsn.isLt, v.rttsn.isLt, v.dataOffset.isLt, v.desiredLength.isLt]

theorem AsyncFields.fields_fit (v : AsyncFields) : fieldsFit Layout.async v.fields = true := by
  simp [Layout.async, AsyncFields.fields, fieldsFit, Kind.fits, Kind.width, v.final.toNat_lt, v.lun.size, v.statsn.isLt,
    v.expCmdsn.isLt, v.maxCmdsn.isLt, v.asyncEvent.isLt, v.asyncVcode.isLt, v.param1.isLt, v.param2.isLt, v.param3.isLt]

theorem RejectFields.fields_fit (v : RejectFields) : fieldsFit Layout.reject v.fields = true := by
  simp [Layout.reject, RejectFields.fields, fieldsFit, Kind.fits, Kind.width, v.final.toNat_lt, v.reason.isLt,
    v.statsn.isLt, v.expCmdsn.isLt, v.maxCmdsn.isLt, v.datasn.isLt]

end Sys2Proof
end

