-- ==== Sys2Proof/Laws/Ops.lean ====
section
/-!
SUPPORT. For each shared operation, one lemma that says everything it can do, and what an instruction can answer.
-/

namespace Sys2Proof.Machine

variable {s t : State} {r : Response}

/-- Delivery goes through on every port the block has. -/
theorem deliver_of_lt (h : s.active < s.ports.length) : s.deliver r = .next (s.withResponse r) := by
  simp [State.deliver, List.getElem?_eq_getElem h]

/-- Delivery on a port the block does not have faults. -/
theorem deliver_of_le (h : s.ports.length ≤ s.active) : s.deliver r = .fault (.noSuchPort s.active) := by
  simp [State.deliver, List.getElem?_eq_none h]

/-- All that a delivery that answers can have done. -/
theorem deliver_eq_next : s.deliver r = .next t ↔ s.active < s.ports.length ∧ t = s.withResponse r := by
  rcases Nat.lt_or_ge s.active s.ports.length with h | h
  · simp [deliver_of_lt h, h, eq_comm]
  · simp [deliver_of_le h, Nat.not_lt.mpr h]

/-- The port being answered holds the response. -/
theorem withResponse_active (h : s.active < s.ports.length) :
    (s.withResponse r).ports[s.active]? = some { response := some r } := by
  simp [h]

/-- Every other port is as it was. -/
theorem withResponse_of_ne {p : Nat} (h : p ≠ s.active) : (s.withResponse r).ports[p]? = s.ports[p]? := by
  simp [List.getElem?_set_ne h.symm]

theorem length_withResponse : (s.withResponse r).ports.length = s.ports.length := by simp

/-- A second response on the same port leaves nothing of the first (R24). -/
theorem withResponse_withResponse (r' : Response) : (s.withResponse r).withResponse r' = s.withResponse r' := by
  simp [State.withResponse]

/-- A port's signals after a response on it. -/
theorem readSignal_withResponse {α : Type} (signal : Response → Option α) (h : s.active < s.ports.length) :
    (s.withResponse r).readSignal s.active signal
      = match signal r with
        | none => .error (.signalNotValid s.active)
        | some v => .ok v := by
  cases hs : signal r <;> simp only [State.readSignal, State.readResponse, withResponse_active h, hs]

/-- The status of the port being answered, after a response. -/
theorem readStatus_withResponse (h : s.active < s.ports.length) :
    (s.withResponse r).readStatus s.active = .ok r.status :=
  readSignal_withResponse _ h

/-- The status signal of the port being answered, after a response. -/
theorem readStatusCode_withResponse (h : s.active < s.ports.length) :
    (s.withResponse r).readStatusCode s.active = .ok r.status.code :=
  readSignal_withResponse _ h

/-- Every other port's signals after a response. -/
theorem readSignal_withResponse_of_ne {α : Type} (signal : Response → Option α) {p : Nat} (h : p ≠ s.active) :
    (s.withResponse r).readSignal p signal = s.readSignal p signal := by
  simp only [State.readSignal, State.readResponse, withResponse_of_ne h]

/-- The three ways DECODE's common steps end (R252, R255, R256). -/
theorem decodeArm_cases (s : State) (tag : Tag) (b : Header48) :
    ((s.reg.entry (opcodeOf b)).valid = false ∧ decodeArm s tag b = .error (.unknownOpcode (opcodeOf b)))
    ∨ ((s.reg.entry (opcodeOf b)).valid = true ∧ ∃ st, checkArm tag b = some st ∧ decodeArm s tag b = .error st)
    ∨ ((s.reg.entry (opcodeOf b)).valid = true ∧ checkArm tag b = none
        ∧ decodeArm s tag b = .ofHeader ⟨readCommon b, tag.code, readFields (s.rows tag) b⟩) := by
  unfold decodeArm
  by_cases h : (s.reg.entry (opcodeOf b)).valid = false
  · simp [h]
  · have h' : (s.reg.entry (opcodeOf b)).valid = true := by simpa using h
    cases hc : checkArm tag b <;> simp [h']

/-- The two ways ENCODE's common steps end (R258, R257). -/
theorem encodeArm_cases (s : State) (tag : Tag) (c : Common 32) (fields : Fields) :
    (((s.reg.entry tag.code).valid = false ∨ 0xFFFFFF < c.dataLength.toNat ∨ fieldsFit (s.rows tag) fields = false
          ∨ domainArm tag fields = false)
        ∧ encodeArm s tag c fields = .error .rangeError)
    ∨ ((s.reg.entry tag.code).valid = true ∧ c.dataLength.toNat ≤ 0xFFFFFF ∧ fieldsFit (s.rows tag) fields = true
        ∧ domainArm tag fields = true
        ∧ encodeArm s tag c fields
            = .ofBytes (writeFields (s.rows tag) fields (writeCommon s.params.tmfBit7 tag c)).data) := by
  unfold encodeArm
  split
  · simp_all
  · split
    · simp_all
    · split
      · simp_all
      · split
        · simp_all
        · right; simp_all

/-- The buffer the variant fields are written over, byte by byte (R257, R259, R260, R130). -/
theorem read_writeCommon (tmfBit7 : Bool) (tag : Tag) (c : Common 32) (k : Nat) :
    (writeCommon tmfBit7 tag c).read k
      = if 16 ≤ k ∧ k < 20 then BitVec.ofNat 8 (c.itt.toNat >>> (8 * (19 - k)))
        else if 5 ≤ k ∧ k < 8 then BitVec.ofNat 8 (c.dataLength.toNat >>> (8 * (7 - k)))
        else if k = 4 then c.ahsLength
        else if k = 1 then fixedFlags tmfBit7 tag
        else if k = 0 then byteZero c.retry c.immediate tag.code
        else 0 := by
  simp only [writeCommon, read_memWrite, Bytes.read_put, Bytes.read_zero]
  by_cases h16 : 16 ≤ k ∧ k < 20
  · rw [if_pos (by omega), if_pos h16, show 4 - 1 - (k - 16) = 19 - k by omega]
  rw [if_neg (by omega), if_neg h16]
  by_cases h5 : 5 ≤ k ∧ k < 8
  · rw [if_pos (by omega), if_pos h5, show 3 - 1 - (k - 5) = 7 - k by omega]
  rw [if_neg (by omega), if_neg h5]
  by_cases h4 : k = 4
  · subst h4; simp
  rw [if_neg (by omega), if_neg h4]
  by_cases h1 : k = 1
  · subst h1; simp
  rw [if_neg (by omega), if_neg h1]
  by_cases h0 : k = 0
  · subst h0; simp
  · rw [if_neg (by omega), if_neg h0]

/-- What an instruction can answer: the delivery of a response, or the refusal of a flag field with `hi < lo`. -/
theorem exec_cases (i : Instr) (s : State) :
    (∃ r, exec i s = s.deliver r) ∨ (∃ hi lo, hi < lo ∧ exec i s = .refused (.noFlagField hi lo)) := by
  cases i with
  | decode len b => exact .inl ⟨_, rfl⟩
  | encode h => exact .inl ⟨_, rfl⟩
  | u24Decode b => exact .inl ⟨_, rfl⟩
  | u24Encode v =>
    simp only [exec, execU24Encode]
    cases u24Pack v <;> exact .inl ⟨_, rfl⟩
  | flagGet b hi lo =>
    simp only [exec, execFlagGet]
    split
    · exact .inr ⟨hi, lo, ‹_›, rfl⟩
    · exact .inl ⟨_, rfl⟩
  | flagSet b hi lo v =>
    simp only [exec, execFlagSet]
    split
    · exact .inr ⟨hi, lo, ‹_›, rfl⟩
    · exact .inl ⟨_, rfl⟩
  | lookup op6 =>
    simp only [exec, execLookup]
    split <;> exact .inl ⟨_, rfl⟩
  | _ x => cases x <;> exact .inl ⟨_, rfl⟩

/-- All that an instruction that answers can have done: a response on the port being answered. -/
theorem exec_eq_next {i : Instr} (h : exec i s = .next t) :
    ∃ r, s.active < s.ports.length ∧ t = s.withResponse r := by
  rcases exec_cases i s with ⟨r, hr⟩ | ⟨hi, lo, -, hr⟩
  · exact ⟨r, deliver_eq_next.mp (hr ▸ h)⟩
  · rw [hr] at h; cases h

/-- All that a step that answers can have done: nothing, where no request is presented; otherwise a response to the
oldest request, on its port. -/
theorem step_eq_next (h : step s = .next t) :
    (s.pending = [] ∧ t = s) ∨
    ∃ p rest i r, s.pending = p :: rest ∧ s.inReset = false ∧ decode p.request = .ok i ∧ p.port < s.ports.length
      ∧ exec i { s with pending := rest, active := p.port } = .next t
      ∧ t = ({ s with pending := rest, active := p.port } : State).withResponse r := by
  unfold step at h
  cases hp : s.pending with
  | nil =>
    rw [hp] at h
    cases h
    exact .inl ⟨rfl, rfl⟩
  | cons p rest =>
    simp only [hp] at h
    split at h
    · cases h
    · next hr =>
      split at h
      · cases h
      · next i hd =>
        obtain ⟨r, hlt, ht⟩ := exec_eq_next h
        exact .inr ⟨p, rest, i, r, rfl, by simpa using hr, hd, hlt, h, ht⟩

end Sys2Proof.Machine
end

