-- ==== Sys2Proof/Laws/PerInstr.lean ====
section
/-!
SUPPORT. Statements made per instruction: the command field of an instruction's request (spec rule R80).
-/

namespace Sys2Proof.Laws

/-- The command a form of a PDU row stands for: DECODE on the wire, ENCODE typed (the table's `match_on`). -/
def xferCommand : Xfer → BitVec 3
  | .wire _ => 0b000
  | .typed _ _ => 0b001

/-- The request that spells a PDU row's instruction carries the command of its form. -/
theorem xferRequest_cmd (inMax : Nat) (t : Tag) (x : Xfer) :
    (xferRequest inMax t x).cmd = xferCommand x := by
  cases x <;> rfl

/-- The `cmd` of an instruction (R80). -/
def command : Instr → BitVec 3
  | .nopOut x => xferCommand x
  | .scsiCmd x => xferCommand x
  | .tmfReq x => xferCommand x
  | .loginReq x => xferCommand x
  | .textReq x => xferCommand x
  | .dataOut x => xferCommand x
  | .logoutReq x => xferCommand x
  | .snack x => xferCommand x
  | .nopIn x => xferCommand x
  | .scsiRsp x => xferCommand x
  | .tmfRsp x => xferCommand x
  | .loginRsp x => xferCommand x
  | .textRsp x => xferCommand x
  | .dataIn x => xferCommand x
  | .logoutRsp x => xferCommand x
  | .r2t x => xferCommand x
  | .async x => xferCommand x
  | .reject x => xferCommand x
  | .decode _ _ => 0b000
  | .encode _ => 0b001
  | .u24Decode _ => 0b010
  | .u24Encode _ => 0b011
  | .flagGet _ _ _ => 0b100
  | .flagSet _ _ _ _ => 0b101
  | .lookup _ => 0b110

/-- The request that spells an instruction carries its command, whatever the build. -/
def EncodedCommand.Statement (i : Instr) : Prop :=
  ∀ inMax, (encode inMax i).cmd = command i

theorem EncodedCommand.nopOut (x : Xfer) : EncodedCommand.Statement (.nopOut x) :=
  fun inMax => xferRequest_cmd inMax .nopOut x
theorem EncodedCommand.scsiCmd (x : Xfer) : EncodedCommand.Statement (.scsiCmd x) :=
  fun inMax => xferRequest_cmd inMax .scsiCmd x
theorem EncodedCommand.tmfReq (x : Xfer) : EncodedCommand.Statement (.tmfReq x) :=
  fun inMax => xferRequest_cmd inMax .tmfReq x
theorem EncodedCommand.loginReq (x : Xfer) : EncodedCommand.Statement (.loginReq x) :=
  fun inMax => xferRequest_cmd inMax .loginReq x
theorem EncodedCommand.textReq (x : Xfer) : EncodedCommand.Statement (.textReq x) :=
  fun inMax => xferRequest_cmd inMax .textReq x
theorem EncodedCommand.dataOut (x : Xfer) : EncodedCommand.Statement (.dataOut x) :=
  fun inMax => xferRequest_cmd inMax .dataOut x
theorem EncodedCommand.logoutReq (x : Xfer) : EncodedCommand.Statement (.logoutReq x) :=
  fun inMax => xferRequest_cmd inMax .logoutReq x
theorem EncodedCommand.snack (x : Xfer) : EncodedCommand.Statement (.snack x) :=
  fun inMax => xferRequest_cmd inMax .snack x
theorem EncodedCommand.nopIn (x : Xfer) : EncodedCommand.Statement (.nopIn x) :=
  fun inMax => xferRequest_cmd inMax .nopIn x
theorem EncodedCommand.scsiRsp (x : Xfer) : EncodedCommand.Statement (.scsiRsp x) :=
  fun inMax => xferRequest_cmd inMax .scsiRsp x
theorem EncodedCommand.tmfRsp (x : Xfer) : EncodedCommand.Statement (.tmfRsp x) :=
  fun inMax => xferRequest_cmd inMax .tmfRsp x
theorem EncodedCommand.loginRsp (x : Xfer) : EncodedCommand.Statement (.loginRsp x) :=
  fun inMax => xferRequest_cmd inMax .loginRsp x
theorem EncodedCommand.textRsp (x : Xfer) : EncodedCommand.Statement (.textRsp x) :=
  fun inMax => xferRequest_cmd inMax .textRsp x
theorem EncodedCommand.dataIn (x : Xfer) : EncodedCommand.Statement (.dataIn x) :=
  fun inMax => xferRequest_cmd inMax .dataIn x
theorem EncodedCommand.logoutRsp (x : Xfer) : EncodedCommand.Statement (.logoutRsp x) :=
  fun inMax => xferRequest_cmd inMax .logoutRsp x
theorem EncodedCommand.r2t (x : Xfer) : EncodedCommand.Statement (.r2t x) :=
  fun inMax => xferRequest_cmd inMax .r2t x
theorem EncodedCommand.async (x : Xfer) : EncodedCommand.Statement (.async x) :=
  fun inMax => xferRequest_cmd inMax .async x
theorem EncodedCommand.reject (x : Xfer) : EncodedCommand.Statement (.reject x) :=
  fun inMax => xferRequest_cmd inMax .reject x
theorem EncodedCommand.decode (len : Nat) (b : Header48) : EncodedCommand.Statement (.decode len b) :=
  fun _ => rfl
theorem EncodedCommand.encode (h : Header 32) : EncodedCommand.Statement (.encode h) :=
  fun _ => rfl
theorem EncodedCommand.u24Decode (b : Bytes 3) : EncodedCommand.Statement (.u24Decode b) :=
  fun _ => rfl
theorem EncodedCommand.u24Encode (v : BitVec 32) : EncodedCommand.Statement (.u24Encode v) :=
  fun _ => rfl
theorem EncodedCommand.flagGet (b : Byte) (hi lo : BitVec 3) : EncodedCommand.Statement (.flagGet b hi lo) :=
  fun _ => rfl
theorem EncodedCommand.flagSet (b : Byte) (hi lo : BitVec 3) (v : BitVec 32) : EncodedCommand.Statement (.flagSet b hi lo v) :=
  fun _ => rfl
theorem EncodedCommand.lookup (op6 : BitVec 6) : EncodedCommand.Statement (.lookup op6) :=
  fun _ => rfl

end Sys2Proof.Laws
end

