-- ==== Sys2Proof/Tests/Slice0.lean ====
section
/-!
SUPPORT. Tests: well-formedness, decoding, one or two vectors per instruction, and a witness for every statement with
hypotheses. Expected values are the spec's own: "V<n>" and "S<n>" are vectors of 95_test_vectors.md, the others name their
rule or table.
-/

namespace Sys2Proof.Tests

open Sys2Proof Sys2Proof.Machine

/-- A machine with two ports, a 48-byte input buffer and the default layout. -/
def small : State :=
  { reg := Registry.contents, params := { inMax := 48, lenW := 6, tmfBit7 := false, layout := Layout.spec },
    inReset := false, ports := [{}, {}], pending := [], active := 0 }

/-- The response that one step gives a request on port 0 of the small machine, if it gives one. -/
def answer (q : Request) : Option Response :=
  match step { small with pending := [⟨0, q⟩] } with
  | .next t => (t.ports.head?).bind (·.response)
  | .fault _ => none
  | .refused _ => none

/-- Why one step refuses a request on port 0 of the small machine, if it does. -/
def refusal (q : Request) : Option Refusal :=
  match step { small with pending := [⟨0, q⟩] } with
  | .next _ => none
  | .fault _ => none
  | .refused r => some r

/-- The input pattern of part 2.7 of 95_test_vectors.md: byte i holds i, but for bytes 0 and 1. -/
def pattern (b0 b1 : Byte) : Header48 :=
  Bytes.tabulate 48 fun k => if k = 0 then b0 else if k = 1 then b1 else BitVec.ofNat 8 k

/-- A header whose bytes after the first two are 0. -/
def flagsOnly (b0 b1 : Byte) : Header48 :=
  ((Bytes.zero 48).put 0 b0).put 1 b1

/-- DECODE of a header. -/
def asked (b : Header48) : Request := { cmd := 0b000, len := 48, inp := b }

/-- ENCODE of a header. -/
def sent (h : Header 32) : Request := { cmd := 0b001, hdr := h }

/-- The common fields of the vectors V1 to V18. -/
def commonV (w : Nat) : Common w :=
  { retry := false, immediate := true, ahsLength := 0x04, dataLength := BitVec.ofNat w 0x50607, itt := 0x10111213 }

/-! ### Well-formedness -/

theorem test_wf_nopOut_refuses_other_opcode : ¬ (Instr.nopOut (.wire (flagsOnly 0x01 0))).wellFormed := by decide
theorem test_wf_scsiCmd_refuses_other_opcode : ¬ (Instr.scsiCmd (.wire (flagsOnly 0x00 0))).wellFormed := by decide
theorem test_wf_tmfReq_refuses_other_opcode : ¬ (Instr.tmfReq (.wire (flagsOnly 0x03 0))).wellFormed := by decide
theorem test_wf_loginReq_refuses_other_opcode : ¬ (Instr.loginReq (.wire (flagsOnly 0x02 0))).wellFormed := by decide
theorem test_wf_textReq_refuses_other_opcode : ¬ (Instr.textReq (.wire (flagsOnly 0x05 0))).wellFormed := by decide
theorem test_wf_dataOut_refuses_other_opcode : ¬ (Instr.dataOut (.wire (flagsOnly 0x04 0))).wellFormed := by decide
theorem test_wf_logoutReq_refuses_other_opcode : ¬ (Instr.logoutReq (.wire (flagsOnly 0x07 0))).wellFormed := by decide
theorem test_wf_snack_refuses_other_opcode : ¬ (Instr.snack (.wire (flagsOnly 0x11 0))).wellFormed := by decide
theorem test_wf_nopIn_refuses_other_opcode : ¬ (Instr.nopIn (.wire (flagsOnly 0x21 0))).wellFormed := by decide
theorem test_wf_scsiRsp_refuses_other_opcode : ¬ (Instr.scsiRsp (.wire (flagsOnly 0x20 0))).wellFormed := by decide
theorem test_wf_tmfRsp_refuses_other_opcode : ¬ (Instr.tmfRsp (.wire (flagsOnly 0x23 0))).wellFormed := by decide
theorem test_wf_loginRsp_refuses_other_opcode : ¬ (Instr.loginRsp (.wire (flagsOnly 0x22 0))).wellFormed := by decide
theorem test_wf_textRsp_refuses_other_opcode : ¬ (Instr.textRsp (.wire (flagsOnly 0x25 0))).wellFormed := by decide
theorem test_wf_dataIn_refuses_other_opcode : ¬ (Instr.dataIn (.wire (flagsOnly 0x24 0))).wellFormed := by decide
theorem test_wf_logoutRsp_refuses_other_opcode : ¬ (Instr.logoutRsp (.wire (flagsOnly 0x27 0))).wellFormed := by decide
theorem test_wf_r2t_refuses_other_opcode : ¬ (Instr.r2t (.wire (flagsOnly 0x30 0))).wellFormed := by decide
theorem test_wf_async_refuses_other_opcode : ¬ (Instr.async (.wire (flagsOnly 0x33 0))).wellFormed := by decide
theorem test_wf_reject_refuses_other_opcode : ¬ (Instr.reject (.wire (flagsOnly 0x3E 0))).wellFormed := by decide
theorem test_wf_decode_refuses_pdu : ¬ (Instr.decode 48 (flagsOnly 0x41 0x80)).wellFormed := by decide
theorem test_wf_encode_refuses_registered : ¬ (Instr.encode { tag := 0x3F }).wellFormed := by decide
theorem test_wf_flagGet_refuses_empty_field : ¬ (Instr.flagGet 0x12 2 3).wellFormed := by decide
theorem test_wf_flagSet_refuses_empty_field : ¬ (Instr.flagSet 0x12 0 7 1).wellFormed := by decide
theorem test_wf_request_refuses_wide_len : ¬ ({ cmd := 0, len := 64 } : Request).wellFormed 48 6 Layout.spec := by decide
theorem test_wf_request_refuses_short_buffer : ¬ ({ cmd := 0, inpRest := [] } : Request).wellFormed 49 6 Layout.spec := by
  decide
/-- A header of no field, of a field too many, of a value too wide, and of an array too short. -/
theorem test_wf_request_refuses_header :
    ¬ (sent ⟨{}, 0x3F, []⟩).wellFormed 48 6 Layout.spec
    ∧ ¬ (sent ⟨{}, 0x3F, ({} : RejectFields).fields ++ [(.lun, .bytes [])]⟩).wellFormed 48 6 Layout.spec
    ∧ ¬ (sent ⟨{}, 0x3F, ((Field.final, Value.num 2) :: ({} : RejectFields).fields.tail)⟩).wellFormed 48 6 Layout.spec
    ∧ ¬ (sent ⟨{}, 0x32, [.final, .lun].zip [.num 1, .bytes [0, 0, 0, 0, 0, 0, 0]] ++ ({} : AsyncFields).fields.drop 2⟩
      ).wellFormed 48 6 Layout.spec := by decide

/-! ### Decoding: byte 0 is retry, immediate, opcode (R62, R75); `cmd` is R80's table -/

theorem test_word_nopOut : decodeTableWord 8 0b00000000 = some (.nopOut (.wire ((Bytes.zero 48).put 0 0b00000000))) := by decide
theorem test_word_scsiCmd : decodeTableWord 8 0b01000001 = some (.scsiCmd (.wire ((Bytes.zero 48).put 0 0b01000001))) := by decide
theorem test_word_tmfReq : decodeTableWord 8 0b10000010 = some (.tmfReq (.wire ((Bytes.zero 48).put 0 0b10000010))) := by decide
theorem test_word_loginReq : decodeTableWord 8 0b11000011 = some (.loginReq (.wire ((Bytes.zero 48).put 0 0b11000011))) := by decide
theorem test_word_textReq : decodeTableWord 8 0b00000100 = some (.textReq (.wire ((Bytes.zero 48).put 0 0b00000100))) := by decide
theorem test_word_dataOut : decodeTableWord 8 0b01000101 = some (.dataOut (.wire ((Bytes.zero 48).put 0 0b01000101))) := by decide
theorem test_word_logoutReq : decodeTableWord 8 0b10000110 = some (.logoutReq (.wire ((Bytes.zero 48).put 0 0b10000110))) := by decide
theorem test_word_snack : decodeTableWord 8 0b11010000 = some (.snack (.wire ((Bytes.zero 48).put 0 0b11010000))) := by decide
theorem test_word_nopIn : decodeTableWord 8 0b00100000 = some (.nopIn (.wire ((Bytes.zero 48).put 0 0b00100000))) := by decide
theorem test_word_scsiRsp : decodeTableWord 8 0b01100001 = some (.scsiRsp (.wire ((Bytes.zero 48).put 0 0b01100001))) := by decide
theorem test_word_tmfRsp : decodeTableWord 8 0b10100010 = some (.tmfRsp (.wire ((Bytes.zero 48).put 0 0b10100010))) := by decide
theorem test_word_loginRsp : decodeTableWord 8 0b11100011 = some (.loginRsp (.wire ((Bytes.zero 48).put 0 0b11100011))) := by decide
theorem test_word_textRsp : decodeTableWord 8 0b00100100 = some (.textRsp (.wire ((Bytes.zero 48).put 0 0b00100100))) := by decide
theorem test_word_dataIn : decodeTableWord 8 0b01100101 = some (.dataIn (.wire ((Bytes.zero 48).put 0 0b01100101))) := by decide
theorem test_word_logoutRsp : decodeTableWord 8 0b10100110 = some (.logoutRsp (.wire ((Bytes.zero 48).put 0 0b10100110))) := by decide
theorem test_word_r2t : decodeTableWord 8 0b11110001 = some (.r2t (.wire ((Bytes.zero 48).put 0 0b11110001))) := by decide
theorem test_word_async : decodeTableWord 8 0b00110010 = some (.async (.wire ((Bytes.zero 48).put 0 0b00110010))) := by decide
theorem test_word_reject : decodeTableWord 8 0b01111111 = some (.reject (.wire ((Bytes.zero 48).put 0 0b01111111))) := by decide
theorem test_word_two_bytes :
    decodeTableWord 16 0x8D03 = some (.loginReq (.wire (flagsOnly 0b00000011 0b10001101))) := by decide
theorem test_word_reserved_opcode : decodeTableWord 8 0b00000111 = none := by decide
theorem test_cmd_decode : decode { cmd := 0b000, len := 48, inp := flagsOnly 0b00000111 0 }
    = .ok (.decode 48 (flagsOnly 0b00000111 0)) := by decide
theorem test_cmd_encode : decode { cmd := 0b001, hdr := ⟨{ itt := 5 }, 0b110000, []⟩ }
    = .ok (.encode ⟨{ itt := 5 }, 0b110000, []⟩) := by decide
theorem test_cmd_u24Decode : decode { cmd := 0b010, inp := pattern 0x12 0x34 }
    = .ok (.u24Decode ⟨[0x12, 0x34, 0x02], rfl⟩) := by decide
theorem test_cmd_u24Encode : decode { cmd := 0b011, v := 0x123456 } = .ok (.u24Encode 0x123456) := by decide
theorem test_cmd_flagGet : decode { cmd := 0b100, inp := flagsOnly 0x8D 0, hi := 3, lo := 2 }
    = .ok (.flagGet 0x8D 3 2) := by decide
theorem test_cmd_flagSet : decode { cmd := 0b101, inp := flagsOnly 0x80 0, hi := 3, lo := 2, v := 1 }
    = .ok (.flagSet 0x80 3 2 1) := by decide
theorem test_cmd_lookup : decode { cmd := 0b110, op6 := 0x31 } = .ok (.lookup 0x31) := by decide
theorem test_cmd_reserved : decode { cmd := 0b111 } = .error .reservedCommand := by decide
theorem test_cmd_typed_tmfReq : decode (sent ⟨{}, 0b000010, [(.function, .num 8)]⟩)
    = .ok (.tmfReq (.typed {} [(.function, .num 8)])) := by decide
/-- The table's word for ENCODE: a header whose tag and fields are all 0. -/
theorem test_word_encode : decodeTableWord 3 0b001 = some (.nopOut (.typed {} ({} : NopOutFields).fields)) := by decide

/-- The first step after reset runs a table word, whatever IN_MAX, LEN_W and N_PORTS are. -/
theorem test_first_step_after_reset :
    (match step (State.reset.withFetchWord 8 0b00110001) with
      | .next t => (t.ports[0]?).bind (·.response)
      | .fault _ => none
      | .refused _ => none)
      = some (Response.ofHeader ⟨{}, 0x31, ({} : R2tFields).fields⟩) := by decide

/-! ### Instructions: the vectors V1 to V18 -/

/-- The variant fields of V1. -/
def fieldsNopOut : NopOutFields :=
  { final := true, lun := ⟨[0x08, 0x09, 0x0A, 0x0B, 0x0C, 0x0D, 0x0E, 0x0F], rfl⟩, ttt := 0x14151617,
    cmdsn := 0x18191A1B, expStatsn := 0x1C1D1E1F }
theorem test_nopOut_decodes : answer (asked (pattern 0x40 0xFF)) = some (.ofHeader ⟨commonV 24, 0x00, fieldsNopOut.fields⟩) := by
  decide
theorem test_nopOut_encodes : answer (sent ⟨commonV 32, 0x00, fieldsNopOut.fields⟩) = some (.ofBytes
    [0x40, 0x80, 0x00, 0x00, 0x04, 0x05, 0x06, 0x07, 0x08, 0x09, 0x0A, 0x0B, 0x0C, 0x0D, 0x0E, 0x0F, 0x10, 0x11, 0x12,
     0x13, 0x14, 0x15, 0x16, 0x17, 0x18, 0x19, 0x1A, 0x1B, 0x1C, 0x1D, 0x1E, 0x1F, 0x00, 0x00, 0x00, 0x00, 0x00, 0x00,
     0x00, 0x00, 0x00, 0x00, 0x00, 0x00, 0x00, 0x00, 0x00, 0x00]) := by decide

/-- The variant fields of V2. -/
def fieldsScsiCmd : ScsiCmdFields :=
  { final := true, read := true, write := true, attr := 1,
    lun := ⟨[0x08, 0x09, 0x0A, 0x0B, 0x0C, 0x0D, 0x0E, 0x0F], rfl⟩, expXferLength := 0x14151617, cmdsn := 0x18191A1B,
    expStatsn := 0x1C1D1E1F,
    cdb := ⟨[0x20, 0x21, 0x22, 0x23, 0x24, 0x25, 0x26, 0x27, 0x28, 0x29, 0x2A, 0x2B, 0x2C, 0x2D, 0x2E, 0x2F], rfl⟩ }
theorem test_scsiCmd_vector :
    answer (asked (pattern 0x41 0xF9)) = some (.ofHeader ⟨commonV 24, 0x01, fieldsScsiCmd.fields⟩)
    ∧ answer (sent ⟨commonV 32, 0x01, fieldsScsiCmd.fields⟩) = some (.ofBytes
    [0x41, 0xE1, 0x00, 0x00, 0x04, 0x05, 0x06, 0x07, 0x08, 0x09, 0x0A, 0x0B, 0x0C, 0x0D, 0x0E, 0x0F, 0x10, 0x11, 0x12,
     0x13, 0x14, 0x15, 0x16, 0x17, 0x18, 0x19, 0x1A, 0x1B, 0x1C, 0x1D, 0x1E, 0x1F, 0x20, 0x21, 0x22, 0x23, 0x24, 0x25,
     0x26, 0x27, 0x28, 0x29, 0x2A, 0x2B, 0x2C, 0x2D, 0x2E, 0x2F]) := by decide

/-- The variant fields of V3. -/
def fieldsTmfReq : TmfReqFields :=
  { function := 8, lun := ⟨[0x08, 0x09, 0x0A, 0x0B, 0x0C, 0x0D, 0x0E, 0x0F], rfl⟩, rtt := 0x14151617,
    cmdsn := 0x18191A1B, expStatsn := 0x1C1D1E1F, refcmdsn := 0x20212223, expDatasn := 0x24252627 }
theorem test_tmfReq_vector :
    answer (asked (pattern 0x42 0x88)) = some (.ofHeader ⟨commonV 24, 0x02, fieldsTmfReq.fields⟩)
    ∧ answer (sent ⟨commonV 32, 0x02, fieldsTmfReq.fields⟩) = some (.ofBytes
    [0x42, 0x08, 0x00, 0x00, 0x04, 0x05, 0x06, 0x07, 0x08, 0x09, 0x0A, 0x0B, 0x0C, 0x0D, 0x0E, 0x0F, 0x10, 0x11, 0x12,
     0x13, 0x14, 0x15, 0x16, 0x17, 0x18, 0x19, 0x1A, 0x1B, 0x1C, 0x1D, 0x1E, 0x1F, 0x20, 0x21, 0x22, 0x23, 0x24, 0x25,
     0x26, 0x27, 0x00, 0x00, 0x00, 0x00, 0x00, 0x00, 0x00, 0x00]) := by decide

/-- The variant fields of V4. -/
def fieldsLoginReq : LoginReqFields :=
  { transit := true, cont := true, csg := 1, nsg := 3, maxVersion := 2, minVersion := 3,
    isid := ⟨[0x08, 0x09, 0x0A, 0x0B, 0x0C, 0x0D], rfl⟩, tsih := 0xE0F, cid := 0x1415, cmdsn := 0x18191A1B,
    expStatsn := 0x1C1D1E1F }
theorem test_loginReq_vector :
    answer (asked (pattern 0x43 0xF7)) = some (.ofHeader ⟨commonV 24, 0x03, fieldsLoginReq.fields⟩)
    ∧ answer (sent ⟨commonV 32, 0x03, fieldsLoginReq.fields⟩) = some (.ofBytes
    [0x43, 0xC7, 0x02, 0x03, 0x04, 0x05, 0x06, 0x07, 0x08, 0x09, 0x0A, 0x0B, 0x0C, 0x0D, 0x0E, 0x0F, 0x10, 0x11, 0x12,
     0x13, 0x14, 0x15, 0x00, 0x00, 0x18, 0x19, 0x1A, 0x1B, 0x1C, 0x1D, 0x1E, 0x1F, 0x00, 0x00, 0x00, 0x00, 0x00, 0x00,
     0x00, 0x00, 0x00, 0x00, 0x00, 0x00, 0x00, 0x00, 0x00, 0x00]) := by decide

/-- The variant fields of V5. -/
def fieldsTextReq : TextReqFields :=
  { final := true, cont := true, ttt := 0x14151617, cmdsn := 0x18191A1B, expStatsn := 0x1C1D1E1F }
theorem test_textReq_decodes : answer (asked (pattern 0x44 0xFF)) = some (.ofHeader ⟨commonV 24, 0x04, fieldsTextReq.fields⟩) := by
  decide
theorem test_textReq_encodes : answer (sent ⟨commonV 32, 0x04, fieldsTextReq.fields⟩) = some (.ofBytes
    [0x44, 0xC0, 0x00, 0x00, 0x04, 0x05, 0x06, 0x07, 0x00, 0x00, 0x00, 0x00, 0x00, 0x00, 0x00, 0x00, 0x10, 0x11, 0x12,
     0x13, 0x14, 0x15, 0x16, 0x17, 0x18, 0x19, 0x1A, 0x1B, 0x1C, 0x1D, 0x1E, 0x1F, 0x00, 0x00, 0x00, 0x00, 0x00, 0x00,
     0x00, 0x00, 0x00, 0x00, 0x00, 0x00, 0x00, 0x00, 0x00, 0x00]) := by decide

/-- The variant fields of V6. -/
def fieldsDataOut : DataOutFields :=
  { final := true, lun := ⟨[0x08, 0x09, 0x0A, 0x0B, 0x0C, 0x0D, 0x0E, 0x0F], rfl⟩, ttt := 0x14151617,
    expStatsn := 0x1C1D1E1F, datasn := 0x24252627, bufferOffset := 0x28292A2B }
theorem test_dataOut_decodes : answer (asked (pattern 0x45 0xFF)) = some (.ofHeader ⟨commonV 24, 0x05, fieldsDataOut.fields⟩) := by
  decide
theorem test_dataOut_encodes : answer (sent ⟨commonV 32, 0x05, fieldsDataOut.fields⟩) = some (.ofBytes
    [0x45, 0x80, 0x00, 0x00, 0x04, 0x05, 0x06, 0x07, 0x08, 0x09, 0x0A, 0x0B, 0x0C, 0x0D, 0x0E, 0x0F, 0x10, 0x11, 0x12,
     0x13, 0x14, 0x15, 0x16, 0x17, 0x00, 0x00, 0x00, 0x00, 0x1C, 0x1D, 0x1E, 0x1F, 0x00, 0x00, 0x00, 0x00, 0x24, 0x25,
     0x26, 0x27, 0x28, 0x29, 0x2A, 0x2B, 0x00, 0x00, 0x00, 0x00]) := by decide

/-- The variant fields of V7. -/
def fieldsLogoutReq : LogoutReqFields :=
  { final := true, reason := 0x7F, cid := 0x1415, cmdsn := 0x18191A1B, expStatsn := 0x1C1D1E1F }
theorem test_logoutReq_decodes : answer (asked (pattern 0x46 0xFF)) = some (.ofHeader ⟨commonV 24, 0x06, fieldsLogoutReq.fields⟩) := by
  decide
theorem test_logoutReq_encodes : answer (sent ⟨commonV 32, 0x06, fieldsLogoutReq.fields⟩) = some (.ofBytes
    [0x46, 0xFF, 0x00, 0x00, 0x04, 0x05, 0x06, 0x07, 0x00, 0x00, 0x00, 0x00, 0x00, 0x00, 0x00, 0x00, 0x10, 0x11, 0x12,
     0x13, 0x14, 0x15, 0x00, 0x00, 0x18, 0x19, 0x1A, 0x1B, 0x1C, 0x1D, 0x1E, 0x1F, 0x00, 0x00, 0x00, 0x00, 0x00, 0x00,
     0x00, 0x00, 0x00, 0x00, 0x00, 0x00, 0x00, 0x00, 0x00, 0x00]) := by decide

/-- The variant fields of V8. -/
def fieldsSnack : SnackFields :=
  { final := true, snackType := 0xF, ttt := 0x14151617, expStatsn := 0x1C1D1E1F, begrun := 0x28292A2B,
    runlength := 0x2C2D2E2F }
theorem test_snack_decodes : answer (asked (pattern 0x50 0xFF)) = some (.ofHeader ⟨commonV 24, 0x10, fieldsSnack.fields⟩) := by
  decide
theorem test_snack_encodes : answer (sent ⟨commonV 32, 0x10, fieldsSnack.fields⟩) = some (.ofBytes
    [0x50, 0x8F, 0x00, 0x00, 0x04, 0x05, 0x06, 0x07, 0x00, 0x00, 0x00, 0x00, 0x00, 0x00, 0x00, 0x00, 0x10, 0x11, 0x12,
     0x13, 0x14, 0x15, 0x16, 0x17, 0x00, 0x00, 0x00, 0x00, 0x1C, 0x1D, 0x1E, 0x1F, 0x00, 0x00, 0x00, 0x00, 0x00, 0x00,
     0x00, 0x00, 0x28, 0x29, 0x2A, 0x2B, 0x2C, 0x2D, 0x2E, 0x2F]) := by decide

/-- The variant fields of V9. -/
def fieldsNopIn : NopInFields :=
  { final := true, lun := ⟨[0x08, 0x09, 0x0A, 0x0B, 0x0C, 0x0D, 0x0E, 0x0F], rfl⟩, ttt := 0x14151617,
    statsn := 0x18191A1B, expCmdsn := 0x1C1D1E1F, maxCmdsn := 0x20212223 }
theorem test_nopIn_decodes : answer (asked (pattern 0x60 0xFF)) = some (.ofHeader ⟨commonV 24, 0x20, fieldsNopIn.fields⟩) := by
  decide
theorem test_nopIn_encodes : answer (sent ⟨commonV 32, 0x20, fieldsNopIn.fields⟩) = some (.ofBytes
    [0x60, 0x80, 0x00, 0x00, 0x04, 0x05, 0x06, 0x07, 0x08, 0x09, 0x0A, 0x0B, 0x0C, 0x0D, 0x0E, 0x0F, 0x10, 0x11, 0x12,
     0x13, 0x14, 0x15, 0x16, 0x17, 0x18, 0x19, 0x1A, 0x1B, 0x1C, 0x1D, 0x1E, 0x1F, 0x20, 0x21, 0x22, 0x23, 0x00, 0x00,
     0x00, 0x00, 0x00, 0x00, 0x00, 0x00, 0x00, 0x00, 0x00, 0x00]) := by decide

/-- The variant fields of V10. -/
def fieldsScsiRsp : ScsiRspFields :=
  { final := true, bidiOverflow := true, bidiUnderflow := true, overflow := true, underflow := true, response := 2,
    cmdStatus := 3, snackTag := 0x14151617, statsn := 0x18191A1B, expCmdsn := 0x1C1D1E1F, maxCmdsn := 0x20212223,
    expDatasn := 0x24252627, biResidualCount := 0x28292A2B, residualCount := 0x2C2D2E2F }
theorem test_scsiRsp_decodes : answer (asked (pattern 0x61 0xFF)) = some (.ofHeader ⟨commonV 24, 0x21, fieldsScsiRsp.fields⟩) := by
  decide
theorem test_scsiRsp_encodes : answer (sent ⟨commonV 32, 0x21, fieldsScsiRsp.fields⟩) = some (.ofBytes
    [0x61, 0x9E, 0x02, 0x03, 0x04, 0x05, 0x06, 0x07, 0x00, 0x00, 0x00, 0x00, 0x00, 0x00, 0x00, 0x00, 0x10, 0x11, 0x12,
     0x13, 0x14, 0x15, 0x16, 0x17, 0x18, 0x19, 0x1A, 0x1B, 0x1C, 0x1D, 0x1E, 0x1F, 0x20, 0x21, 0x22, 0x23, 0x24, 0x25,
     0x26, 0x27, 0x28, 0x29, 0x2A, 0x2B, 0x2C, 0x2D, 0x2E, 0x2F]) := by decide

/-- The variant fields of V11. -/
def fieldsTmfRsp : TmfRspFields :=
  { final := true, response := 2, statsn := 0x18191A1B, expCmdsn := 0x1C1D1E1F, maxCmdsn := 0x20212223 }
theorem test_tmfRsp_decodes : answer (asked (pattern 0x62 0xFF)) = some (.ofHeader ⟨commonV 24, 0x22, fieldsTmfRsp.fields⟩) := by
  decide
theorem test_tmfRsp_encodes : answer (sent ⟨commonV 32, 0x22, fieldsTmfRsp.fields⟩) = some (.ofBytes
    [0x62, 0x80, 0x02, 0x00, 0x04, 0x05, 0x06, 0x07, 0x00, 0x00, 0x00, 0x00, 0x00, 0x00, 0x00, 0x00, 0x10, 0x11, 0x12,
     0x13, 0x00, 0x00, 0x00, 0x00, 0x18, 0x19, 0x1A, 0x1B, 0x1C, 0x1D, 0x1E, 0x1F, 0x20, 0x21, 0x22, 0x23, 0x00, 0x00,
     0x00, 0x00, 0x00, 0x00, 0x00, 0x00, 0x00, 0x00, 0x00, 0x00]) := by decide

/-- The variant fields of V12. -/
def fieldsLoginRsp : LoginRspFields :=
  { transit := true, cont := true, csg := 1, nsg := 3, maxVersion := 2, activeVersion := 3,
    isid := ⟨[0x08, 0x09, 0x0A, 0x0B, 0x0C, 0x0D], rfl⟩, tsih := 0xE0F, statsn := 0x18191A1B, expCmdsn := 0x1C1D1E1F,
    maxCmdsn := 0x20212223, statusClass := 0x24, statusDetail := 0x25 }
theorem test_loginRsp_vector :
    answer (asked (pattern 0x63 0xF7)) = some (.ofHeader ⟨commonV 24, 0x23, fieldsLoginRsp.fields⟩)
    ∧ answer (sent ⟨commonV 32, 0x23, fieldsLoginRsp.fields⟩) = some (.ofBytes
    [0x63, 0xC7, 0x02, 0x03, 0x04, 0x05, 0x06, 0x07, 0x08, 0x09, 0x0A, 0x0B, 0x0C, 0x0D, 0x0E, 0x0F, 0x10, 0x11, 0x12,
     0x13, 0x00, 0x00, 0x00, 0x00, 0x18, 0x19, 0x1A, 0x1B, 0x1C, 0x1D, 0x1E, 0x1F, 0x20, 0x21, 0x22, 0x23, 0x24, 0x25,
     0x00, 0x00, 0x00, 0x00, 0x00, 0x00, 0x00, 0x00, 0x00, 0x00]) := by decide

/-- The variant fields of V13. -/
def fieldsTextRsp : TextRspFields :=
  { final := true, cont := true, ttt := 0x14151617, statsn := 0x18191A1B, expCmdsn := 0x1C1D1E1F,
    maxCmdsn := 0x20212223 }
theorem test_textRsp_decodes : answer (asked (pattern 0x64 0xFF)) = some (.ofHeader ⟨commonV 24, 0x24, fieldsTextRsp.fields⟩) := by
  decide
theorem test_textRsp_encodes : answer (sent ⟨commonV 32, 0x24, fieldsTextRsp.fields⟩) = some (.ofBytes
    [0x64, 0xC0, 0x00, 0x00, 0x04, 0x05, 0x06, 0x07, 0x00, 0x00, 0x00, 0x00, 0x00, 0x00, 0x00, 0x00, 0x10, 0x11, 0x12,
     0x13, 0x14, 0x15, 0x16, 0x17, 0x18, 0x19, 0x1A, 0x1B, 0x1C, 0x1D, 0x1E, 0x1F, 0x20, 0x21, 0x22, 0x23, 0x00, 0x00,
     0x00, 0x00, 0x00, 0x00, 0x00, 0x00, 0x00, 0x00, 0x00, 0x00]) := by decide

/-- The variant fields of V14. -/
def fieldsDataIn : DataInFields :=
  { final := true, ack := true, overflow := true, underflow := true, statusPresent := true, cmdStatus := 3,
    lun := ⟨[0x08, 0x09, 0x0A, 0x0B, 0x0C, 0x0D, 0x0E, 0x0F], rfl⟩, ttt := 0x14151617, statsn := 0x18191A1B,
    expCmdsn := 0x1C1D1E1F, maxCmdsn := 0x20212223, datasn := 0x24252627, bufferOffset := 0x28292A2B,
    residualCount := 0x2C2D2E2F }
theorem test_dataIn_decodes : answer (asked (pattern 0x65 0xFF)) = some (.ofHeader ⟨commonV 24, 0x25, fieldsDataIn.fields⟩) := by
  decide
theorem test_dataIn_encodes : answer (sent ⟨commonV 32, 0x25, fieldsDataIn.fields⟩) = some (.ofBytes
    [0x65, 0xC7, 0x00, 0x03, 0x04, 0x05, 0x06, 0x07, 0x08, 0x09, 0x0A, 0x0B, 0x0C, 0x0D, 0x0E, 0x0F, 0x10, 0x11, 0x12,
     0x13, 0x14, 0x15, 0x16, 0x17, 0x18, 0x19, 0x1A, 0x1B, 0x1C, 0x1D, 0x1E, 0x1F, 0x20, 0x21, 0x22, 0x23, 0x24, 0x25,
     0x26, 0x27, 0x28, 0x29, 0x2A, 0x2B, 0x2C, 0x2D, 0x2E, 0x2F]) := by decide

/-- The variant fields of V15. -/
def fieldsLogoutRsp : LogoutRspFields :=
  { final := true, response := 2, statsn := 0x18191A1B, expCmdsn := 0x1C1D1E1F, maxCmdsn := 0x20212223,
    time2wait := 0x2829, time2retain := 0x2A2B }
theorem test_logoutRsp_decodes : answer (asked (pattern 0x66 0xFF)) = some (.ofHeader ⟨commonV 24, 0x26, fieldsLogoutRsp.fields⟩) := by
  decide
theorem test_logoutRsp_encodes : answer (sent ⟨commonV 32, 0x26, fieldsLogoutRsp.fields⟩) = some (.ofBytes
    [0x66, 0x80, 0x02, 0x00, 0x04, 0x05, 0x06, 0x07, 0x00, 0x00, 0x00, 0x00, 0x00, 0x00, 0x00, 0x00, 0x10, 0x11, 0x12,
     0x13, 0x00, 0x00, 0x00, 0x00, 0x18, 0x19, 0x1A, 0x1B, 0x1C, 0x1D, 0x1E, 0x1F, 0x20, 0x21, 0x22, 0x23, 0x00, 0x00,
     0x00, 0x00, 0x28, 0x29, 0x2A, 0x2B, 0x00, 0x00, 0x00, 0x00]) := by decide

/-- The variant fields of V16. -/
def fieldsR2t : R2tFields :=
  { final := true, lun := ⟨[0x08, 0x09, 0x0A, 0x0B, 0x0C, 0x0D, 0x0E, 0x0F], rfl⟩, ttt := 0x14151617,
    statsn := 0x18191A1B, expCmdsn := 0x1C1D1E1F, maxCmdsn := 0x20212223, rttsn := 0x24252627,
    dataOffset := 0x28292A2B, desiredLength := 0x2C2D2E2F }
theorem test_r2t_decodes : answer (asked (pattern 0x71 0xFF)) = some (.ofHeader ⟨commonV 24, 0x31, fieldsR2t.fields⟩) := by
  decide
theorem test_r2t_encodes : answer (sent ⟨commonV 32, 0x31, fieldsR2t.fields⟩) = some (.ofBytes
    [0x71, 0x80, 0x00, 0x00, 0x04, 0x05, 0x06, 0x07, 0x08, 0x09, 0x0A, 0x0B, 0x0C, 0x0D, 0x0E, 0x0F, 0x10, 0x11, 0x12,
     0x13, 0x14, 0x15, 0x16, 0x17, 0x18, 0x19, 0x1A, 0x1B, 0x1C, 0x1D, 0x1E, 0x1F, 0x20, 0x21, 0x22, 0x23, 0x24, 0x25,
     0x26, 0x27, 0x28, 0x29, 0x2A, 0x2B, 0x2C, 0x2D, 0x2E, 0x2F]) := by decide

/-- The variant fields of V17. -/
def fieldsAsync : AsyncFields :=
  { final := true, lun := ⟨[0x08, 0x09, 0x0A, 0x0B, 0x0C, 0x0D, 0x0E, 0x0F], rfl⟩, statsn := 0x18191A1B,
    expCmdsn := 0x1C1D1E1F, maxCmdsn := 0x20212223, asyncEvent := 0x24, asyncVcode := 0x25, param1 := 0x2627,
    param2 := 0x2829, param3 := 0x2A2B }
theorem test_async_decodes : answer (asked (pattern 0x72 0xFF)) = some (.ofHeader ⟨commonV 24, 0x32, fieldsAsync.fields⟩) := by
  decide
theorem test_async_encodes : answer (sent ⟨commonV 32, 0x32, fieldsAsync.fields⟩) = some (.ofBytes
    [0x72, 0x80, 0x00, 0x00, 0x04, 0x05, 0x06, 0x07, 0x08, 0x09, 0x0A, 0x0B, 0x0C, 0x0D, 0x0E, 0x0F, 0x10, 0x11, 0x12,
     0x13, 0x00, 0x00, 0x00, 0x00, 0x18, 0x19, 0x1A, 0x1B, 0x1C, 0x1D, 0x1E, 0x1F, 0x20, 0x21, 0x22, 0x23, 0x24, 0x25,
     0x26, 0x27, 0x28, 0x29, 0x2A, 0x2B, 0x00, 0x00, 0x00, 0x00]) := by decide

/-- The variant fields of V18. -/
def fieldsReject : RejectFields :=
  { final := true, reason := 2, statsn := 0x18191A1B, expCmdsn := 0x1C1D1E1F, maxCmdsn := 0x20212223,
    datasn := 0x24252627 }
theorem test_reject_decodes : answer (asked (pattern 0x7F 0xFF)) = some (.ofHeader ⟨commonV 24, 0x3F, fieldsReject.fields⟩) := by
  decide
theorem test_reject_encodes : answer (sent ⟨commonV 32, 0x3F, fieldsReject.fields⟩) = some (.ofBytes
    [0x7F, 0x80, 0x02, 0x00, 0x04, 0x05, 0x06, 0x07, 0x00, 0x00, 0x00, 0x00, 0x00, 0x00, 0x00, 0x00, 0x10, 0x11, 0x12,
     0x13, 0x00, 0x00, 0x00, 0x00, 0x18, 0x19, 0x1A, 0x1B, 0x1C, 0x1D, 0x1E, 0x1F, 0x20, 0x21, 0x22, 0x23, 0x24, 0x25,
     0x26, 0x27, 0x00, 0x00, 0x00, 0x00, 0x00, 0x00, 0x00, 0x00]) := by decide

/-! ### Instructions: checks and their precedence (parts 1, 2.4, 2.5) -/

/-- S3. -/
theorem test_decode_masks_control_bits : answer (asked (flagsOnly 0xC1 0xC1)) = some (.ofHeader
    ⟨{ retry := true, immediate := true }, 0x01, ({ final := true, read := true, attr := 1 } : ScsiCmdFields).fields⟩) := by decide
/-- S5 and the last line of part 2.4. -/
theorem test_decode_precedence :
    answer { cmd := 0b000, len := 47, inp := flagsOnly 0x01 0x86 } = some (.error (.tooShort 47))
    ∧ answer (asked (flagsOnly 0xC7 0x86)) = some (.error (.unknownOpcode 0x07)) := by decide
/-- S7 and the largest valid attribute. -/
theorem test_scsiCmd_checks : answer (asked (flagsOnly 0x01 0x06)) = some (.error (.invalidAttribute 6))
    ∧ answer (asked (flagsOnly 0x01 0x84)) = some (.ofHeader ⟨{}, 0x01, ({ final := true, attr := 4 } : ScsiCmdFields).fields⟩) := by decide
/-- Part 2.5, and R130 with `P_TMF_BIT7 = 1`. -/
theorem test_tmfReq_checks : answer (asked (flagsOnly 0x02 0x80)) = some (.error (.unknownFunction 0))
    ∧ answer (asked (flagsOnly 0x02 0xFF)) = some (.error (.unknownFunction 0x7F))
    ∧ (match exec (.tmfReq (.typed {} ({ function := 1 } : TmfReqFields).fields)) { small with params := { small.params with tmfBit7 := true } } with
      | .next t => t.readOut 0 1
      | .fault f => .error f
      | .refused _ => .error (.noResponseYet 0)) = .ok 0x81 := by decide
/-- S6 as 90_conflicts.md C1 corrects it, and R133's example. -/
theorem test_loginReq_checks : answer (asked (flagsOnly 0x03 0x8D)) = some (.ofHeader
      ⟨{}, 0x03, ({ transit := true, csg := 3, nsg := 1 } : LoginReqFields).fields⟩)
    ∧ answer (asked (flagsOnly 0x03 0x88)) = some (.error (.invalidStage 2)) := by decide
/-- R133 as R180 uses it: the next stage. -/
theorem test_loginRsp_checks : answer (asked (flagsOnly 0x23 0x82)) = some (.error (.invalidStage 2)) := by decide
/-- R258: a data length one past the largest, and an unregistered tag. -/
theorem test_encode_data_length : answer (sent ⟨{ dataLength := 0x1000000 }, 0x00, ({} : NopOutFields).fields⟩) = some (.error .rangeError) := by decide
theorem test_encode_unregistered_tag : answer (sent ⟨{}, 0x07, []⟩) = some (.error .rangeError) := by decide

/-! ### A build with another LAYOUT (92_eei_decisions.md part 2) -/

/-- A build whose Logout Request has a four-byte `cid`, a three-byte `tsih` and a six-byte `isid`, and whose Text Request has a
`lun`; the other tables are the default ones. -/
def wider : State :=
  { small with params := { small.params with layout :=
    (.logoutReq, [⟨.final, .bit 1 7⟩, ⟨.cid, .be32 20⟩, ⟨.tsih, .u24 9⟩, ⟨.isid, .bytes 24 6⟩])
    :: (.textReq, [⟨.cont, .bit 1 6⟩, ⟨.lun, .bytes 8 8⟩]) :: Layout.spec } }

/-- It is a build the spec allows. -/
theorem wider_lawful : wider.lawful := by
  refine ⟨by decide, fun t => ?_⟩
  cases t
  case logoutReq | textReq =>
    refine ⟨?_, by decide, by decide, by decide⟩
    simp [Layout.rows, wider, Kind.inHeader]
  all_goals exact Layout.lawful_spec _

/-- A row past the header, two rows on one bit, a row on a common field, a row on the bit of `P_TMF_BIT7`, two rows of one name,
and a checked field that is not where its check reads it. -/
theorem test_layout_refuses :
    ¬ Layout.LawfulRows .reject [⟨.statsn, .be32 45⟩]
    ∧ ¬ Layout.LawfulRows .reject [⟨.final, .bit 1 7⟩, ⟨.reason, .u8 1⟩]
    ∧ ¬ Layout.LawfulRows .reject [⟨.lun, .bytes 12 5⟩]
    ∧ ¬ Layout.LawfulRows .tmfReq [⟨.function, .sub 1 6 0⟩, ⟨.final, .bit 1 7⟩]
    ∧ ¬ Layout.LawfulRows .reject [⟨.statsn, .be32 24⟩, ⟨.statsn, .be32 28⟩]
    ∧ ¬ Layout.LawfulRows .scsiCmd [⟨.attr, .sub 2 2 0⟩] :=
  ⟨fun h => absurd (h.inHeader _ (List.mem_singleton.mpr rfl)) (by decide), fun h => absurd h.apart (by decide),
    fun h => absurd h.apart (by decide), fun h => absurd h.apart (by decide), fun h => absurd h.names (by decide),
    fun h => absurd h.checked (by decide)⟩

/-- R70, R72: the width of a field in the header is that of its row's kind, and a header has the fields of its rows. -/
theorem test_decode_follows_layout :
    exec (.logoutReq (.wire (pattern 0x06 0x80))) wider = .next (wider.withResponse (.ofHeader
      ⟨{ ahsLength := 4, dataLength := 0x50607, itt := 0x10111213 }, 0x06, [(.final, .num 1), (.cid, .num 0x14151617),
        (.tsih, .num 0x090A0B), (.isid, .bytes [0x18, 0x19, 0x1A, 0x1B, 0x1C, 0x1D])]⟩))
    ∧ exec (.textReq (.wire (pattern 0x04 0x80))) wider = .next (wider.withResponse (.ofHeader
      ⟨{ ahsLength := 4, dataLength := 0x50607, itt := 0x10111213 }, 0x04, [(.cont, .num 0),
        (.lun, .bytes [8, 9, 10, 11, 12, 13, 14, 15])]⟩)) := ⟨rfl, rfl⟩

/-- R70, R73: the encode column of each row, and 0 elsewhere. -/
theorem test_encode_follows_layout :
    exec (.logoutReq (.typed {} [(.final, .num 1), (.cid, .num 0xA1B2C3D4), (.tsih, .num 0xE5F607),
      (.isid, .bytes [1, 2, 3, 4, 5, 6])])) wider
      = .next (wider.withResponse (.ofBytes ([0x06, 0x80] ++ zeros 7 ++ [0xE5, 0xF6, 0x07] ++ zeros 8
          ++ [0xA1, 0xB2, 0xC3, 0xD4, 1, 2, 3, 4, 5, 6] ++ zeros 18))) := rfl

/-- R70's range check of a `u24` field, by R101. -/
theorem test_encode_u24_row_out_of_range :
    exec (.logoutReq (.typed {} [(.final, .num 1), (.cid, .num 0), (.tsih, .num 0x1000000), (.isid, .bytes (zeros 6))])) wider
      = .next (wider.withResponse (.error .rangeError)) := rfl

/-! ### Instructions: the Field Codec and the registry (parts 2.1 to 2.3) -/

theorem test_u24Decode_byte_order : answer { cmd := 0b010, inp := pattern 0x12 0x34 } = some (.ofInt 0x123402) := by decide
theorem test_u24Decode_largest : answer { cmd := 0b010, inp := (flagsOnly 0xFF 0xFF).put 2 0xFF } = some (.ofInt 0xFFFFFF) := by
  decide
theorem test_u24Encode_byte_order : answer { cmd := 0b011, v := 0x123456 } = some (.ofBytes [0x12, 0x34, 0x56]) := by decide
theorem test_u24Encode_never_truncates : answer { cmd := 0b011, v := 0x1FFFFFF } = some (.error .rangeError) := by decide
theorem test_flagGet_middle : answer { cmd := 0b100, inp := flagsOnly 0xA5 0, hi := 5, lo := 3 } = some (.ofInt 4) := by decide
theorem test_flagGet_empty_field : refusal { cmd := 0b100, inp := flagsOnly 0x12 0, hi := 2, lo := 3 }
    = some (.noFlagField 2 3) := by decide
theorem test_flagSet_drops_high_bits : answer { cmd := 0b101, inp := flagsOnly 0x12 0, hi := 7, lo := 0, v := 0x1AB }
    = some (.ofBytes [0xAB]) := by decide
theorem test_flagSet_keeps_other_bits : answer { cmd := 0b101, inp := flagsOnly 0x8D 0, hi := 3, lo := 2, v := 1 }
    = some (.ofBytes [0x85]) := by decide
theorem test_lookup_last_entry : answer { cmd := 0b110, op6 := 0x3F } = some (.ofEntry ⟨true, 0x3F, .targetToInitiator⟩) := by decide
theorem test_lookup_gap : answer { cmd := 0b110, op6 := 0x3E } = some (.error (.unknownOpcode 0x3E)) := by decide
theorem test_reserved_command : refusal { cmd := 0b111 } = some .reservedCommand := by decide
/-- R290's codes. -/
theorem test_status_codes : [Status.ok, .tooShort 0, .unknownOpcode 0, .invalidAttribute 0, .unknownFunction 0,
    .invalidStage 0, .rangeError].map Status.code = [0, 1, 2, 3, 4, 5, 6] := by decide

/-! ### Witnesses: for every statement with hypotheses, values that meet them, clause by clause -/

/-- The build and the port that the statements ask for. -/
theorem test_witness_serving : small.serving := by decide
theorem test_witness_U24DecodeIsBigEndian : small.active < small.ports.length := by decide
theorem test_witness_U24EncodeWritesThreeBytesOrFails : small.active < small.ports.length
    ∧ (0xFFFFFF : BitVec 32).toNat ≤ 0xFFFFFF ∧ 0x1000000 ≤ (0x1000000 : BitVec 32).toNat := by decide
theorem test_witness_U24CodecRoundTrips : small.active < small.ports.length ∧ (0xFFFFFF : BitVec 32).toNat ≤ 0xFFFFFF
    ∧ exec (.u24Decode (Bytes.zero 3)) small = exec (.u24Decode ⟨[0, 0, 0], rfl⟩) small := ⟨by decide, by decide, rfl⟩
theorem test_witness_FlagGetReadsField : small.active < small.ports.length ∧ (0 : BitVec 3) ≤ 7 ∧ (7 : BitVec 3) ≤ 7
    ∧ (6 : BitVec 3) < 7 := by decide
theorem test_witness_FlagSetWritesField : small.active < small.ports.length ∧ (0 : BitVec 3) ≤ 7 ∧ (7 : BitVec 3) ≤ 7
    ∧ (6 : BitVec 3) < 7 := by decide
theorem test_witness_FlagAccessorLaws : small.active < small.ports.length ∧ (0 : BitVec 3) ≤ 0 ∧ (0 : BitVec 3) ≤ 7
    ∧ (7 < (0 : BitVec 3).toNat ∨ (6 : BitVec 3).toNat < 7) := by decide
theorem test_witness_LookupAnswersEntryOrUnknownOpcode : small.reg = Registry.contents ∧ small.active < small.ports.length
    ∧ ∀ t : Tag, (0x3E : BitVec 6) ≠ t.code := ⟨by decide, by decide, fun t => by cases t <;> decide⟩
theorem test_witness_RegistryMatchesTable : (State.reset.reg.entry 0x3F).valid = true
    ∧ (State.reset.reg.entry 0x3E).valid = false := by decide
theorem test_witness_RegistryCountAndDirectionBit : (State.reset.reg.entry 0x20).valid = true := by decide
theorem test_witness_LayoutsCoverHeaderOnce : 47 < 48 ∧ 7 < 8 := by decide
theorem test_witness_ShortBufferIsTooShort : small.active < small.ports.length ∧ 47 < 48 := by decide
theorem test_witness_ReservedOpcodesFail : small.reg = Registry.contents ∧ small.active < small.ports.length
    ∧ (∀ op ∈ ([0x07, 0x0F, 0x11, 0x1F, 0x27, 0x30, 0x33, 0x3E] : List (BitVec 6)),
      (0x07 ≤ op ∧ op ≤ 0x0F) ∨ (0x11 ≤ op ∧ op ≤ 0x1F) ∨ (0x27 ≤ op ∧ op ≤ 0x30) ∨ (0x33 ≤ op ∧ op ≤ 0x3E))
    ∧ 48 ≤ 48 ∧ ((flagsOnly 0x3E 0).read 0).extractLsb' 0 6 = 0x3E := by decide
theorem test_witness_NopOutDecodesAndEncodes : small.serving ∧ ((flagsOnly 0xC0 0).read 0).extractLsb' 0 6 = 0x00
    ∧ (0xFFFFFF : BitVec 32).toNat ≤ 0xFFFFFF ∧ 0x1000000 ≤ (0x1000000 : BitVec 32).toNat := by decide
theorem test_witness_ScsiCmdDecodesAndEncodes : small.serving
    ∧ ((flagsOnly 0x01 0xE4).read 0).extractLsb' 0 6 = 0x01 ∧ (flagsAt (flagsOnly 0x01 0xE4) 0 3).toNat ≤ 4
    ∧ ((flagsOnly 0x01 0x05).read 0).extractLsb' 0 6 = 0x01 ∧ 4 < (flagsAt (flagsOnly 0x01 0x05) 0 3).toNat
    ∧ (4 : BitVec 3).toNat ≤ 4 ∧ 4 < (5 : BitVec 3).toNat ∧ (0xFFFFFF : BitVec 32).toNat ≤ 0xFFFFFF
    ∧ 0x1000000 ≤ (0x1000000 : BitVec 32).toNat := by decide
theorem test_witness_TmfReqDecodesAndEncodes : small.serving
    ∧ ((flagsOnly 0x02 0x88).read 0).extractLsb' 0 6 = 0x02
    ∧ 1 ≤ (flagsAt (flagsOnly 0x02 0x88) 0 7).toNat ∧ (flagsAt (flagsOnly 0x02 0x88) 0 7).toNat ≤ 8
    ∧ ((flagsOnly 0x02 0x80).read 0).extractLsb' 0 6 = 0x02
    ∧ ((flagsAt (flagsOnly 0x02 0x80) 0 7).toNat < 1 ∨ 8 < (flagsAt (flagsOnly 0x02 0x80) 0 7).toNat)
    ∧ 1 ≤ (1 : BitVec 7).toNat ∧ (8 : BitVec 7).toNat ≤ 8 ∧ ((9 : BitVec 7).toNat < 1 ∨ 8 < (9 : BitVec 7).toNat)
    ∧ (0xFFFFFF : BitVec 32).toNat ≤ 0xFFFFFF ∧ 0x1000000 ≤ (0x1000000 : BitVec 32).toNat := by decide
theorem test_witness_LoginReqDecodesAndEncodes : small.serving
    ∧ ((flagsOnly 0x03 0x0D).read 0).extractLsb' 0 6 = 0x03
    ∧ flagsAt (flagsOnly 0x03 0x0D) 2 2 ≠ 2 ∧ flagsAt (flagsOnly 0x03 0x0D) 0 2 ≠ 2
    ∧ ((flagsOnly 0x03 0x0A).read 0).extractLsb' 0 6 = 0x03
    ∧ (flagsAt (flagsOnly 0x03 0x0A) 2 2 = 2 ∨ flagsAt (flagsOnly 0x03 0x0A) 0 2 = 2)
    ∧ (3 : BitVec 2) ≠ 2 ∧ (1 : BitVec 2) ≠ 2 ∧ ((0 : BitVec 2) = 2 ∨ (2 : BitVec 2) = 2)
    ∧ (0xFFFFFF : BitVec 32).toNat ≤ 0xFFFFFF ∧ 0x1000000 ≤ (0x1000000 : BitVec 32).toNat := by decide
theorem test_witness_TextReqDecodesAndEncodes : small.serving ∧ ((flagsOnly 0xC4 0).read 0).extractLsb' 0 6 = 0x04
    ∧ (0xFFFFFF : BitVec 32).toNat ≤ 0xFFFFFF ∧ 0x1000000 ≤ (0x1000000 : BitVec 32).toNat := by decide
theorem test_witness_DataOutDecodesAndEncodes : small.serving ∧ ((flagsOnly 0xC5 0).read 0).extractLsb' 0 6 = 0x05
    ∧ (0xFFFFFF : BitVec 32).toNat ≤ 0xFFFFFF ∧ 0x1000000 ≤ (0x1000000 : BitVec 32).toNat := by decide
theorem test_witness_LogoutReqDecodesAndEncodes : small.serving
    ∧ ((flagsOnly 0xC6 0).read 0).extractLsb' 0 6 = 0x06 ∧ (0xFFFFFF : BitVec 32).toNat ≤ 0xFFFFFF
    ∧ 0x1000000 ≤ (0x1000000 : BitVec 32).toNat := by decide
theorem test_witness_SnackDecodesAndEncodes : small.serving ∧ ((flagsOnly 0xD0 0).read 0).extractLsb' 0 6 = 0x10
    ∧ (0xFFFFFF : BitVec 32).toNat ≤ 0xFFFFFF ∧ 0x1000000 ≤ (0x1000000 : BitVec 32).toNat := by decide
theorem test_witness_NopInDecodesAndEncodes : small.serving ∧ ((flagsOnly 0xE0 0).read 0).extractLsb' 0 6 = 0x20
    ∧ (0xFFFFFF : BitVec 32).toNat ≤ 0xFFFFFF ∧ 0x1000000 ≤ (0x1000000 : BitVec 32).toNat := by decide
theorem test_witness_ScsiRspDecodesAndEncodes : small.serving ∧ ((flagsOnly 0xE1 0).read 0).extractLsb' 0 6 = 0x21
    ∧ (0xFFFFFF : BitVec 32).toNat ≤ 0xFFFFFF ∧ 0x1000000 ≤ (0x1000000 : BitVec 32).toNat := by decide
theorem test_witness_TmfRspDecodesAndEncodes : small.serving ∧ ((flagsOnly 0xE2 0).read 0).extractLsb' 0 6 = 0x22
    ∧ (0xFFFFFF : BitVec 32).toNat ≤ 0xFFFFFF ∧ 0x1000000 ≤ (0x1000000 : BitVec 32).toNat := by decide
theorem test_witness_LoginRspDecodesAndEncodes : small.serving
    ∧ ((flagsOnly 0x23 0x0D).read 0).extractLsb' 0 6 = 0x23
    ∧ flagsAt (flagsOnly 0x23 0x0D) 2 2 ≠ 2 ∧ flagsAt (flagsOnly 0x23 0x0D) 0 2 ≠ 2
    ∧ ((flagsOnly 0x23 0x0A).read 0).extractLsb' 0 6 = 0x23
    ∧ (flagsAt (flagsOnly 0x23 0x0A) 2 2 = 2 ∨ flagsAt (flagsOnly 0x23 0x0A) 0 2 = 2)
    ∧ (3 : BitVec 2) ≠ 2 ∧ (1 : BitVec 2) ≠ 2 ∧ ((0 : BitVec 2) = 2 ∨ (2 : BitVec 2) = 2)
    ∧ (0xFFFFFF : BitVec 32).toNat ≤ 0xFFFFFF ∧ 0x1000000 ≤ (0x1000000 : BitVec 32).toNat := by decide
theorem test_witness_TextRspDecodesAndEncodes : small.serving ∧ ((flagsOnly 0xE4 0).read 0).extractLsb' 0 6 = 0x24
    ∧ (0xFFFFFF : BitVec 32).toNat ≤ 0xFFFFFF ∧ 0x1000000 ≤ (0x1000000 : BitVec 32).toNat := by decide
theorem test_witness_DataInDecodesAndEncodes : small.serving ∧ ((flagsOnly 0xE5 0).read 0).extractLsb' 0 6 = 0x25
    ∧ (0xFFFFFF : BitVec 32).toNat ≤ 0xFFFFFF ∧ 0x1000000 ≤ (0x1000000 : BitVec 32).toNat := by decide
theorem test_witness_LogoutRspDecodesAndEncodes : small.serving
    ∧ ((flagsOnly 0xE6 0).read 0).extractLsb' 0 6 = 0x26 ∧ (0xFFFFFF : BitVec 32).toNat ≤ 0xFFFFFF
    ∧ 0x1000000 ≤ (0x1000000 : BitVec 32).toNat := by decide
theorem test_witness_R2tDecodesAndEncodes : small.serving ∧ ((flagsOnly 0xF1 0).read 0).extractLsb' 0 6 = 0x31
    ∧ (0xFFFFFF : BitVec 32).toNat ≤ 0xFFFFFF ∧ 0x1000000 ≤ (0x1000000 : BitVec 32).toNat := by decide
theorem test_witness_AsyncDecodesAndEncodes : small.serving ∧ ((flagsOnly 0xF2 0).read 0).extractLsb' 0 6 = 0x32
    ∧ (0xFFFFFF : BitVec 32).toNat ≤ 0xFFFFFF ∧ 0x1000000 ≤ (0x1000000 : BitVec 32).toNat := by decide
theorem test_witness_RejectDecodesAndEncodes : small.serving ∧ ((flagsOnly 0xFF 0).read 0).extractLsb' 0 6 = 0x3F
    ∧ (0xFFFFFF : BitVec 32).toNat ≤ 0xFFFFFF ∧ 0x1000000 ≤ (0x1000000 : BitVec 32).toNat := by decide
theorem test_witness_DecodeStatusFollowsStepOrder : small.reg = Registry.contents ∧ small.active < small.ports.length := by
  decide
theorem test_witness_DecodeAnswersHeaderAndResidual : small.reg = Registry.contents ∧ small.active < small.ports.length
    ∧ 48 ≤ 48
    ∧ ((flagsOnly 0xC1 0x04).read 0).extractLsb' 0 6 = Tag.scsiCmd.code
    ∧ checkStatus .scsiCmd ((flagsOnly 0xC1 0x04).read 1) = .ok := by decide

/-- The small machine's build is one the spec allows. -/
theorem small_lawful : small.lawful := ⟨by decide, Layout.lawful_spec⟩

/-- A header at the boundaries of its domains. -/
def edge : Header 32 := ⟨{ dataLength := 0xFFFFFF }, 0x02, ({ function := 8 } : TmfReqFields).fields⟩

theorem edge_inDomain : headerInDomain small.params.layout edge :=
  ⟨by decide, .tmfReq, rfl, TmfReqFields.fields_fit _, fun v hv => by
    have : numOf edge.fields .function = some 8 := rfl
    rw [this] at hv
    cases hv
    decide⟩

theorem test_witness_EncodeFailsExactlyOutOfDomain : small.reg = Registry.contents ∧ small.active < small.ports.length
    ∧ headerInDomain small.params.layout edge
    ∧ ¬ headerInDomain small.params.layout { edge with common := { dataLength := 0x1000000 } }
    ∧ ¬ headerInDomain small.params.layout { edge with fields := [] } :=
  ⟨by decide, by decide, edge_inDomain, fun h => absurd h.1 (by decide), fun ⟨_, t, _, hf, _⟩ => by
    cases t <;> exact absurd hf (by decide)⟩
theorem test_witness_EncodeWritesCommonFields : small.lawful ∧ small.active < small.ports.length
    ∧ headerInDomain small.params.layout edge := ⟨small_lawful, by decide, edge_inDomain⟩
theorem test_witness_MultiplexerSelectsOneArm : small.reg = Registry.contents ∧ 48 ≤ 48
    ∧ ((flagsOnly 0xBF 0).read 0).extractLsb' 0 6 = Tag.reject.code 
    ∧ ({ tag := 0x3F } : Header 32).tag = Tag.reject.code := by decide
theorem test_witness_EncodeThenDecodeReturnsHeader : small.lawful ∧ small.active < small.ports.length
    ∧ headerInDomain small.params.layout edge ∧ 48 ≤ 48 := ⟨small_lawful, by decide, edge_inDomain, by decide⟩
theorem test_witness_DecodeThenEncodeClearsReserved : small.lawful ∧ small.active < small.ports.length
    ∧ exec (.decode 48 (pattern 0x42 0x88)) small
      = .next (small.withResponse (.ofHeader ⟨commonV 24, 0x02, fieldsTmfReq.fields⟩))
    ∧ named (small.rows .tmfReq) 1 6 = true ∧ named (small.rows .tmfReq) 1 7 = false :=
  ⟨small_lawful, by decide, rfl, by decide, by decide⟩
theorem test_witness_ControlBitsAreIndependent : small.lawful ∧ small.active < small.ports.length
    ∧ exec (.decode 48 (flagsOnly 0x07 0)) small = .next (small.withResponse (.error (.unknownOpcode 0x07)))
    ∧ exec (.decode 48 (pattern 0x7F 0xFF)) small
      = .next (small.withResponse (.ofHeader ⟨commonV 24, 0x3F, fieldsReject.fields⟩)) :=
  ⟨small_lawful, by decide, rfl, rfl⟩
theorem test_witness_ReservedPositionsDoNotMatter : small.lawful
    ∧ ((pattern 0x40 0xFF).read 0).extractLsb' 0 6 = Tag.nopOut.code
    ∧ (∀ k i, k < 48 → i < 8 → named (small.rows .nopOut) k i = true → ((pattern 0x40 0xFF).read k).getLsbD i
        = ((((pattern 0x40 0x80).put 2 0).put 47 0).read k).getLsbD i) := by
  have key : ∀ k < 48, ∀ i < 8, named (small.rows .nopOut) k i = true → ((pattern 0x40 0xFF).read k).getLsbD i
      = ((((pattern 0x40 0x80).put 2 0).put 47 0).read k).getLsbD i := by decide
  exact ⟨small_lawful, by decide, fun k i hk hi => key k hk i hi⟩
theorem test_witness_BytesPast48DoNotMatter : 48 ≤ (asked (Bytes.zero 48)).len ∧ 48 ≤ 63 := by decide
theorem test_witness_ResponseIsFunctionOfRequest : small.reg = ({ small with active := 1 } : State).reg
    ∧ small.params = ({ small with active := 1 } : State).params ∧ small.active < small.ports.length
    ∧ ({ small with active := 1 } : State).active < ({ small with active := 1 } : State).ports.length := by decide
theorem test_witness_EarlierRequestsLeaveNoTrace : ∃ t, exec (.u24Encode 7) small = .next t := ⟨_, rfl⟩
theorem test_witness_InstructionsChangeOnlyTheirPort : (∃ t, exec (.lookup 0x3F) small = .next t) ∧ 1 ≠ small.active :=
  ⟨⟨_, rfl⟩, by decide⟩
theorem test_witness_OutHoldsOnlyWhatTheRequestProduced : (∃ t, exec (.u24Encode 7) small = .next t)
    ∧ outWidth (.u24Encode 7) ≤ 3 := ⟨⟨_, rfl⟩, by decide⟩
theorem test_witness_ErrorsCarryNoOtherSignal : ∃ t, exec (.lookup 0x3E) small = .next t
    ∧ t.readStatus small.active = .ok (.unknownOpcode 0x3E) ∧ Status.unknownOpcode 0x3E ≠ .ok := ⟨_, rfl, rfl, by decide⟩
theorem test_witness_MissingPortStopsTheRequest :
    ({ small with active := 2 } : State).ports.length ≤ ({ small with active := 2 } : State).active := by decide
theorem test_witness_OrderOfPortsDoesNotMatter : (0 : Nat) ≠ 1
    ∧ ∃ t, Sys2Proof.core.run 2 { small with pending := [⟨0, { cmd := 0b110 }⟩, ⟨1, asked (Bytes.zero 48)⟩] } = .next t :=
  ⟨by decide, _, rfl⟩

/-- The small machine is a good state. -/
theorem small_inv (q : List Presented) : ({ small with pending := q } : State).Inv where
  lawful := small_lawful
  inMax := (by decide : 48 ≤ small.params.inMax)
  lenW := (by decide : 6 ≤ small.params.lenW)
  nPorts := (by decide : 1 ≤ small.ports.length)
  responses := by
    intro port hp r hr
    simp only [small, List.mem_cons, List.not_mem_nil, or_false, or_self] at hp
    subst hp
    cases hr

theorem test_witness_StepKeepsGoodStates : ({ small with pending := [⟨1, asked (pattern 0x41 0xF9)⟩] } : State).Inv
    ∧ ∃ t, step { small with pending := [⟨1, asked (pattern 0x41 0xF9)⟩] } = .next t := ⟨small_inv _, _, rfl⟩
theorem test_witness_ResponsesAreUnsetAfterReset : 0 < State.reset.ports.length ∧ 1 < small.ports.length
    ∧ ∃ t, step { small with pending := [⟨1, asked (Bytes.zero 48)⟩] } = .next t := ⟨by simp, by decide, _, rfl⟩
theorem test_witness_StepNeverChangesTheRegistry :
    ∃ t, step { small with pending := [⟨0, { cmd := 0b011, v := 0xFFFFFFFF }⟩] } = .next t := ⟨_, rfl⟩
theorem test_witness_RequestsDuringResetAreRefused : decode { cmd := 0b110, op6 := 1 } = .ok (.lookup 1) := by decide
theorem test_witness_ReservedCommandIsRefused : ((flagsOnly 0x07 0).read 0).extractLsb' 0 6 = 0x07
    ∧ (∀ t : Tag, (0x07 : BitVec 6) ≠ t.code) ∧ ((flagsOnly 0x7F 0).read 0).extractLsb' 0 6 = Tag.reject.code
    ∧ (47 < 48 ∧ 48 ≤ (asked (flagsOnly 0x7F 0)).len) ∧ (sent edge).hdr.tag = Tag.tmfReq.code
    ∧ (sent { tag := 0x07 }).hdr.tag = 0x07 ∧ small.inReset = false
    ∧ ({ small with pending := [⟨0, { cmd := 0b111 }⟩] } : State).pending = [⟨0, { cmd := 0b111 }⟩] :=
  ⟨by decide, fun t => by cases t <;> decide, by decide, by decide, rfl, rfl, rfl, rfl⟩
theorem test_witness_DecodeOfEncodedInstruction : (Instr.nopOut (.wire (pattern 0xC0 0xFF))).wellFormed
    ∧ (Instr.reject (.typed {} [])).wellFormed ∧ (Instr.decode 47 (pattern 0x01 0xFF)).wellFormed
    ∧ (Instr.decode 48 (pattern 0x07 0xFF)).wellFormed ∧ (Instr.encode { tag := 0x3E }).wellFormed
    ∧ (Instr.flagGet 0xFF 7 7).wellFormed ∧ (Instr.flagSet 0xFF 7 0 1).wellFormed := by decide
theorem test_witness_DecodedInstructionIsWellFormed : decode (sent { tag := 0x3E }) = .ok (.encode { tag := 0x3E })
    ∧ decode { cmd := 0b100, hi := 6, lo := 7 } = .ok (.flagGet 0 6 7) := by decide
theorem test_witness_StepRunsDecodedInstruction : small.inReset = false
    ∧ ({ small with pending := [⟨1, asked (flagsOnly 0x31 0x80)⟩] } : State).pending = [⟨1, asked (flagsOnly 0x31 0x80)⟩]
    ∧ decode (asked (flagsOnly 0x31 0x80)) = .ok (.r2t (.wire (flagsOnly 0x31 0x80)))
    ∧ (({ cmd := 0b101, hi := 6, lo := 7 } : Request).cmd = 0b101
      ∧ ({ cmd := 0b101, hi := 6, lo := 7 } : Request).hi < ({ cmd := 0b101, hi := 6, lo := 7 } : Request).lo)
    ∧ small.pending = [] := by decide
theorem test_witness_StatusSignalCarriesTheKindOfTheResponse : ∃ t, exec (.lookup 0x3E) small = .next t := ⟨_, rfl⟩
theorem test_witness_OutHasValuesExactlyWhereProduced : ∃ t, exec (.flagSet 0x80 3 2 1) small = .next t
    ∧ t.readOut small.active 0 = .ok 0x84 ∧ t.readStatus small.active = .ok .ok ∧ 0 < outWidth (.flagSet 0x80 3 2 1) :=
  ⟨_, rfl, by decide, rfl, by decide⟩
theorem test_witness_KindsReadAndWriteTheirColumns : (47 < 48 ∧ 7 < 8) ∧ 0 ≤ 7 ∧ 1 ≤ 1 ∧ 0xFF < 2 ^ (7 - 0 + 1) ∧ 47 + 1 ≤ 48
    ∧ 46 + 2 ≤ 48 ∧ 45 + 3 ≤ 48 ∧ 44 + 4 ≤ 48 ∧ 32 + 16 ≤ 48 ∧ (zeros 16).length = 16 := by decide

end Sys2Proof.Tests
end

section
/-!
Scope (00_scope.md): a response is a function of the request, the registry and the build (R3, R24), and a step runs the
instruction that the oldest request spells (R50).
-/

namespace Sys2Proof.Machine

section SameBuild

variable {s u : State} (hreg : s.reg = u.reg) (hparams : s.params = u.params)
include hreg hparams

/-- DECODE's common steps read the registry and the build's rows, and nothing else of the state. -/
theorem decodeArm_congr (tag : Tag) (b : Header48) : decodeArm s tag b = decodeArm u tag b := by
  rw [decodeArm, decodeArm, State.rows, State.rows, hreg, hparams]

/-- ENCODE's common steps read the registry, the build's rows and `P_TMF_BIT7`, and nothing else of the state. -/
theorem encodeArm_congr (tag : Tag) (c : Common 32) (fields : Fields) :
    encodeArm s tag c fields = encodeArm u tag c fields := by
  rw [encodeArm, encodeArm, State.rows, State.rows, hreg, hparams]

theorem decodeResponse_congr (len : Nat) (b : Header48) : decodeResponse s len b = decodeResponse u len b := by
  simp only [decodeResponse, hreg, decodeArm_congr hreg hparams]

theorem encodeResponse_congr (h : Header 32) : encodeResponse s h = encodeResponse u h := by
  simp only [encodeResponse, encodeArm_congr hreg hparams]

/-- `exec_cases` at two states of one build: both deliver the same response, or both refuse the same flag field. -/
theorem exec_cases_same_build (i : Instr) :
    (∃ r, exec i s = s.deliver r ∧ exec i u = u.deliver r)
    ∨ (∃ hi lo, exec i s = .refused (.noFlagField hi lo) ∧ exec i u = .refused (.noFlagField hi lo)) := by
  cases i with
  | decode len b => exact .inl ⟨_, rfl, congrArg u.deliver (decodeResponse_congr hreg hparams len b).symm⟩
  | encode h => exact .inl ⟨_, rfl, congrArg u.deliver (encodeResponse_congr hreg hparams h).symm⟩
  | u24Decode b => exact .inl ⟨_, rfl, rfl⟩
  | u24Encode v =>
    simp only [exec, execU24Encode]
    cases u24Pack v <;> exact .inl ⟨_, rfl, rfl⟩
  | flagGet b hi lo =>
    simp only [exec, execFlagGet]
    split
    · exact .inr ⟨hi, lo, rfl, rfl⟩
    · exact .inl ⟨_, rfl, rfl⟩
  | flagSet b hi lo v =>
    simp only [exec, execFlagSet]
    split
    · exact .inr ⟨hi, lo, rfl, rfl⟩
    · exact .inl ⟨_, rfl, rfl⟩
  | lookup op6 =>
    simp only [exec, execLookup, hreg]
    split <;> exact .inl ⟨_, rfl, rfl⟩
  | _ x =>
    cases x with
    | wire b => exact .inl ⟨_, rfl, congrArg u.deliver (decodeArm_congr hreg hparams _ b).symm⟩
    | typed c fields => exact .inl ⟨_, rfl, congrArg u.deliver (encodeArm_congr hreg hparams _ c fields).symm⟩

end SameBuild

/-- Settles O41: delivery on an existing port answers the response that the two states of one build agree on. -/
theorem responseIsFunctionOfRequest : Obligations.ResponseIsFunctionOfRequest := by
  intro i s u hreg hparams hs hu
  rcases exec_cases_same_build hreg hparams i with ⟨r, hrs, hru⟩ | ⟨hi, lo, hrs, hru⟩
  · exact .inl ⟨r, hrs.trans (deliver_of_lt hs), hru.trans (deliver_of_lt hu)⟩
  · exact .inr ⟨.noFlagField hi lo, hrs, hru⟩

/-- An idle block stays as it is, in reset too (R301). -/
theorem step_of_pending_nil {s : State} (hp : s.pending = []) : step s = .next s := by
  simp only [step, hp]

/-- Outside reset the oldest request runs, on its port (R50). -/
theorem step_of_decode_ok {s : State} {p : Presented} {rest : List Presented} {i : Instr} (hr : s.inReset = false)
    (hp : s.pending = p :: rest) (hd : decode p.request = .ok i) :
    step s = exec i { s with pending := rest, active := p.port } := by
  simp [step, hp, hr, hd]

theorem exec_flagGet_of_lt (b : Byte) {hi lo : BitVec 3} (h : hi < lo) (s : State) :
    exec (.flagGet b hi lo) s = .refused (.noFlagField hi lo) :=
  if_pos h

theorem exec_flagSet_of_lt (b : Byte) {hi lo : BitVec 3} (v : BitVec 32) (h : hi < lo) (s : State) :
    exec (.flagSet b hi lo v) s = .refused (.noFlagField hi lo) :=
  if_pos h

theorem decode_of_cmd_flagGet {q : Request} (h : q.cmd = 0b100) :
    decode q = .ok (.flagGet (q.inp.read 0) q.hi q.lo) := by
  simp [decode, h]

theorem decode_of_cmd_flagSet {q : Request} (h : q.cmd = 0b101) :
    decode q = .ok (.flagSet (q.inp.read 0) q.hi q.lo q.v) := by
  simp [decode, h]

/-- Settles O56: the refusal of `hi < lo` is the step of a decoded flag request, whose meaning refuses it. -/
theorem stepRunsDecodedInstruction : Obligations.StepRunsDecodedInstruction := by
  refine ⟨fun s p rest i => step_of_decode_ok, fun s p rest hr hp hcmd hlt => ?_, fun s => step_of_pending_nil⟩
  rcases hcmd with hget | hset
  · rw [step_of_decode_ok hr hp (decode_of_cmd_flagGet hget), exec_flagGet_of_lt _ hlt]
  · rw [step_of_decode_ok hr hp (decode_of_cmd_flagSet hset), exec_flagSet_of_lt _ _ hlt]

end Sys2Proof.Machine
end

section
/-!
State (10_state.md): what an instruction can answer and which offsets of `OUT` it gives a value, the frame of an instruction, and
the invariant of good states.
-/

namespace Sys2Proof.Machine

/-! ### The checks of DECODE -/

theorem taskAttributeOf_eq_none (code : BitVec 3) : taskAttributeOf code = none ↔ 4 < code.toNat := by
  revert code
  decide

theorem tmfFunctionOf_eq_none (code : BitVec 7) :
    tmfFunctionOf code = none ↔ code.toNat = 0 ∨ 8 < code.toNat := by
  revert code
  decide

theorem loginStageOf_eq_none (code : BitVec 2) : loginStageOf code = none ↔ code = 2 := by
  revert code
  decide

/-- The status of a failing check is an error, with a payload that the check can give (R290, R293 to R295). -/
theorem checkArm_eq_some {t : Tag} {b : Header48} {st : Status} (h : checkArm t b = some st) :
    st ≠ .ok ∧ st.justified := by
  cases t
  case scsiCmd =>
    simp only [checkArm, checkScsiCmd, Option.isNone_iff_eq_none, taskAttributeOf_eq_none, Option.ite_none_right_eq_some] at h
    obtain ⟨hattr, ⟨⟩⟩ := h
    exact ⟨nofun, hattr⟩
  case tmfReq =>
    simp only [checkArm, checkTmfReq, Option.isNone_iff_eq_none, tmfFunctionOf_eq_none, Option.ite_none_right_eq_some] at h
    obtain ⟨hfunction, ⟨⟩⟩ := h
    exact ⟨nofun, hfunction⟩
  case loginReq | loginRsp =>
    simp only [checkArm, checkLogin, Option.isNone_iff_eq_none, loginStageOf_eq_none] at h
    split at h
    · next hcsg => cases h; exact ⟨nofun, hcsg⟩
    · split at h
      · next hnsg => cases h; exact ⟨nofun, hnsg⟩
      · cases h
  all_goals cases h

/-- A field of a byte survives the cut to the field's own width. -/
theorem toNat_setWidth_readFlag (x : Byte) (hi lo : Nat) :
    ((readFlag x hi lo).setWidth (hi - lo + 1)).toNat = (readFlag x hi lo).toNat := by
  have hlt : (readFlag x hi lo).toNat < 2 ^ (hi - lo + 1) := Nat.lt_pow_two_of_testBit _ fun j hj => by
    simp [testBit_readFlag, Nat.not_lt.mpr hj]
  rw [BitVec.toNat_setWidth, Nat.mod_eq_of_lt hlt]

/-- The value that a legal table reads for a field with a check is the one the check reads (R125, R129, R133, R180). -/
theorem numOf_checked {t : Tag} {rows : List Row} (hl : Layout.LawfulRows t rows) {f : Field} {o hi lo : Nat}
    (hr : ⟨f, .sub o hi lo⟩ ∈ Layout.checked t) (b : Header48) :
    numOf (readFields rows b) f = some ((readFlag (b.read o) hi lo).setWidth (hi - lo + 1)).toNat := by
  rw [toNat_setWidth_readFlag]
  exact numOf_readFields hl.names (hl.checked _ hr) b

/-- A login stage that passes its check is not 2, as the number a table reads for it. -/
theorem toNat_ne_two_of_loginStageOf {code : BitVec 2} (h : ¬ loginStageOf code = none) : code.toNat ≠ 2 := fun h2 =>
  h ((loginStageOf_eq_none code).mpr (BitVec.eq_of_toNat_eq h2))

/-- The fields read from a header that passes the check of its tag are in their domains (R255, R258). -/
theorem fieldsInDomain_readFields {t : Tag} {rows : List Row} (hl : Layout.LawfulRows t rows) {b : Header48}
    (hc : checkArm t b = none) : fieldsInDomain t (readFields rows b) := by
  cases t
  case scsiCmd =>
    simp only [checkArm, checkScsiCmd, Option.isNone_iff_eq_none, taskAttributeOf_eq_none, ite_eq_right_iff, reduceCtorEq,
      imp_false, Nat.not_lt] at hc
    intro v hv
    rw [numOf_checked hl List.mem_cons_self b] at hv
    cases hv
    exact hc
  case tmfReq =>
    simp only [checkArm, checkTmfReq, Option.isNone_iff_eq_none, tmfFunctionOf_eq_none, ite_eq_right_iff, reduceCtorEq,
      imp_false] at hc
    intro v hv
    rw [numOf_checked hl List.mem_cons_self b] at hv
    cases hv
    obtain ⟨hzero, hlarge⟩ := not_or.mp hc
    exact ⟨Nat.one_le_iff_ne_zero.mpr hzero, Nat.not_lt.mp hlarge⟩
  case loginReq | loginRsp =>
    simp only [checkArm, checkLogin, Option.isNone_iff_eq_none] at hc
    split at hc
    · cases hc
    · next hcsg =>
      split at hc
      · cases hc
      · next hnsg =>
        rintro v (hv | hv)
        · rw [numOf_checked hl List.mem_cons_self b] at hv
          cases hv
          exact toNat_ne_two_of_loginStageOf hcsg
        · rw [numOf_checked hl (List.mem_cons_of_mem _ List.mem_cons_self) b] at hv
          cases hv
          exact toNat_ne_two_of_loginStageOf hnsg
  all_goals trivial

/-! ### The registry -/

theorem bit_direction_tag (t : Tag) : t.direction.bit = t.code.extractLsb' 5 1 := by cases t <;> rfl

/-- An opcode without a valid entry in R231 is reserved (R76). -/
theorem ofCode_eq_none_of_not_valid {op : BitVec 6} (h : (Registry.contents.entry op).valid = false) :
    Tag.ofCode op = none := by
  rw [Option.eq_none_iff_forall_ne_some]
  intro t ht
  rw [(Registry.valid_contents_iff op).mpr ⟨t, ht⟩] at h
  cases h

/-- The direction of a valid entry of R231 is the top bit of its tag (R232). -/
theorem bit_direction_entry {op : BitVec 6} (h : (Registry.contents.entry op).valid = true) :
    (Registry.contents.entry op).direction.bit = (Registry.contents.entry op).tag.extractLsb' 5 1 := by
  obtain ⟨t, ht⟩ := (Registry.valid_contents_iff op).mp h
  rw [Tag.ofCode_eq_some.mp ht, Registry.entry_contents_code]
  exact bit_direction_tag t

/-- The tag of a valid entry of R231 is registered (R254). -/
theorem ofCode_tag_entry {op : BitVec 6} (h : (Registry.contents.entry op).valid = true) :
    ∃ t, Tag.ofCode (Registry.contents.entry op).tag = some t := by
  obtain ⟨t, ht⟩ := (Registry.valid_contents_iff op).mp h
  exact ⟨t, by rw [Tag.ofCode_eq_some.mp ht, Registry.entry_contents_code, Tag.ofCode_code]⟩

/-! ### What an instruction can answer -/

/-- The responses that a request which can produce `w` bytes of `OUT` can have in a state, by what they carry (R26, R298). Payloads
are held to their checks where the registry is the spec's. -/
inductive State.CanAnswer (s : State) : Nat → Response → Prop
  | error {w : Nat} {st : Status} (notOk : st ≠ .ok) (justified : s.reg = Registry.contents → st.justified) :
      CanAnswer s w (.error st)
  | header {t : Tag} {b : Header48} (passes : checkArm t b = none) :
      CanAnswer s 0 (.ofHeader ⟨readCommon b, t.code, readFields (s.rows t) b⟩)
  | bytes {w : Nat} {bs : List Byte} (length : bs.length = w) (inRange : w ≤ 48) : CanAnswer s w (.ofBytes bs)
  | int {x : BitVec 32} : CanAnswer s 0 (.ofInt x)
  | entry {op : BitVec 6} (valid : (s.reg.entry op).valid = true) : CanAnswer s 0 (.ofEntry (s.reg.entry op))

section Answers

variable (s : State)

/-- UnknownOpcode with an opcode that has no valid entry (R292). -/
theorem canAnswer_unknownOpcode {w : Nat} {op : BitVec 6} (h : (s.reg.entry op).valid = false) :
    s.CanAnswer w (.error (.unknownOpcode op)) :=
  .error nofun fun hreg => ofCode_eq_none_of_not_valid (hreg ▸ h)

/-- RangeError, which carries nothing (R296). -/
theorem canAnswer_rangeError {w : Nat} : s.CanAnswer w (.error .rangeError) :=
  .error nofun fun _ => trivial

theorem canAnswer_decodeArm (t : Tag) (b : Header48) : s.CanAnswer 0 (decodeArm s t b) := by
  rcases decodeArm_cases s t b with ⟨hvalid, hr⟩ | ⟨-, st, hcheck, hr⟩ | ⟨-, hcheck, hr⟩ <;> rw [hr]
  · exact canAnswer_unknownOpcode s hvalid
  · obtain ⟨notOk, justified⟩ := checkArm_eq_some hcheck
    exact .error notOk fun _ => justified
  · exact .header hcheck

theorem canAnswer_encodeArm (t : Tag) (c : Common 32) (fields : Fields) :
    s.CanAnswer 48 (encodeArm s t c fields) := by
  rcases encodeArm_cases s t c fields with ⟨-, hr⟩ | ⟨-, -, -, -, hr⟩ <;> rw [hr]
  · exact canAnswer_rangeError s
  · exact .bytes (Bytes.data_length _) le_rfl

theorem canAnswer_decodeResponse (len : Nat) (b : Header48) : s.CanAnswer 0 (decodeResponse s len b) := by
  unfold decodeResponse
  split
  · next hlen => exact .error nofun fun _ => hlen
  · split
    · next hvalid => exact canAnswer_unknownOpcode s hvalid
    · next hvalid =>
      split
      · exact canAnswer_decodeArm s _ b
      · next htag =>
        refine .error nofun fun hreg => ?_
        obtain ⟨t, ht⟩ := ofCode_tag_entry (Bool.not_eq_false _ ▸ hreg ▸ hvalid)
        rw [hreg, ht] at htag
        cases htag

theorem canAnswer_encodeResponse (h : Header 32) : s.CanAnswer 48 (encodeResponse s h) := by
  unfold encodeResponse
  split
  · exact canAnswer_encodeArm s _ _ _
  · exact canAnswer_rangeError s

/-- All that an instruction can do: deliver a response that it can answer, or, with `hi < lo`, refuse a flag field. -/
theorem exec_cases_canAnswer (i : Instr) :
    (∃ r, exec i s = s.deliver r ∧ s.CanAnswer (outWidth i) r)
    ∨ ∃ (b : Byte) (hi lo : BitVec 3), hi < lo ∧ exec i s = .refused (.noFlagField hi lo)
        ∧ (i = .flagGet b hi lo ∨ ∃ v : BitVec 32, i = .flagSet b hi lo v) := by
  cases i with
  | decode len b => exact .inl ⟨_, rfl, canAnswer_decodeResponse s len b⟩
  | encode h => exact .inl ⟨_, rfl, canAnswer_encodeResponse s h⟩
  | u24Decode b => exact .inl ⟨_, rfl, .int⟩
  | u24Encode v =>
    simp only [exec, execU24Encode]
    cases u24Pack v with
    | none => exact .inl ⟨_, rfl, canAnswer_rangeError s⟩
    | some bs => exact .inl ⟨_, rfl, .bytes bs.size (show 3 ≤ 48 by decide)⟩
  | flagGet b hi lo =>
    by_cases hlt : hi < lo
    · exact .inr ⟨b, hi, lo, hlt, exec_flagGet_of_lt b hlt s, .inl rfl⟩
    · exact .inl ⟨_, if_neg hlt, .int⟩
  | flagSet b hi lo v =>
    by_cases hlt : hi < lo
    · exact .inr ⟨b, hi, lo, hlt, exec_flagSet_of_lt b v hlt s, .inr ⟨v, rfl⟩⟩
    · exact .inl ⟨_, if_neg hlt, .bytes rfl (show 1 ≤ 48 by decide)⟩
  | lookup op6 =>
    cases hvalid : (s.reg.entry op6).valid with
    | false => exact .inl ⟨_, if_pos hvalid, canAnswer_unknownOpcode s hvalid⟩
    | true => exact .inl ⟨_, if_neg (by simp [hvalid]), .entry hvalid⟩
  | _ x =>
    cases x with
    | wire b => exact .inl ⟨_, rfl, canAnswer_decodeArm s _ b⟩
    | typed c fields => exact .inl ⟨_, rfl, canAnswer_encodeArm s _ c fields⟩

end Answers

/-- All that an instruction that answers can have done (`exec_eq_next`), with the response it can have given. -/
theorem exec_eq_next_canAnswer {s t : State} {i : Instr} (h : exec i s = .next t) :
    ∃ r, s.active < s.ports.length ∧ t = s.withResponse r ∧ s.CanAnswer (outWidth i) r := by
  rcases exec_cases_canAnswer s i with ⟨r, hr, hcan⟩ | ⟨b, hi, lo, -, hr, -⟩
  · obtain ⟨hlt, ht⟩ := deliver_eq_next.mp (hr ▸ h)
    exact ⟨r, hlt, ht, hcan⟩
  · rw [hr] at h
    cases h

/-! ### Good responses and good states -/

theorem Response.wf_error (layout : Layout) {st : Status} (h : st.justified) : (Response.error st).wf layout where
  justified := h
  errorAlone _ := rfl
  residual := nofun
  outCanonical := Memory.wf_nil
  outInRange := nofun
  entryValid := nofun

theorem Response.wf_ofHeader {layout : Layout} {h : Header 24} {t : Tag} (htag : h.tag = t.code)
    (hfields : variantOf layout t h.fields) : (Response.ofHeader h).wf layout where
  justified := trivial
  errorAlone := fun hne => absurd rfl hne
  residual := by
    rintro _ ⟨⟩
    exact ⟨rfl, rfl, t, htag, hfields⟩
  outCanonical := Memory.wf_nil
  outInRange := nofun
  entryValid := nofun

theorem Response.wf_ofBytes (layout : Layout) {bs : List Byte} (h : bs.length ≤ 48) :
    (Response.ofBytes bs).wf layout where
  justified := trivial
  errorAlone := fun hne => absurd rfl hne
  residual := nofun
  outCanonical := Memory.wf_ofBytes bs
  outInRange := fun _ hc => (Memory.lt_of_mem_ofBytes hc).trans_le h
  entryValid := nofun

theorem Response.wf_ofInt (layout : Layout) (x : BitVec 32) : (Response.ofInt x).wf layout where
  justified := trivial
  errorAlone := fun hne => absurd rfl hne
  residual := nofun
  outCanonical := Memory.wf_nil
  outInRange := nofun
  entryValid := nofun

theorem Response.wf_ofEntry (layout : Layout) {e : RegEntry} (hvalid : e.valid = true)
    (hdirection : e.direction.bit = e.tag.extractLsb' 5 1) : (Response.ofEntry e).wf layout where
  justified := trivial
  errorAlone := fun hne => absurd rfl hne
  residual := nofun
  outCanonical := Memory.wf_nil
  outInRange := nofun
  entryValid := by
    rintro _ ⟨⟩
    exact ⟨hvalid, hdirection⟩

/-- Under a lawful build every response that can be given is a good one. -/
theorem State.CanAnswer.wf {s : State} {w : Nat} {r : Response} (h : s.CanAnswer w r) (hs : s.lawful) :
    r.wf s.params.layout := by
  obtain ⟨hreg, hlayout⟩ := hs
  cases h with
  | error _ justified => exact Response.wf_error _ (justified hreg)
  | @header t b passes =>
    exact Response.wf_ofHeader rfl ⟨fieldsFit_readFields _ b, fieldsInDomain_readFields (hlayout t) passes⟩
  | bytes length inRange => exact Response.wf_ofBytes _ (length ▸ inRange)
  | int => exact Response.wf_ofInt _ _
  | entry valid =>
    rw [hreg] at valid ⊢
    exact Response.wf_ofEntry _ valid (bit_direction_entry valid)

/-- A good response leaves a good state good, on whatever port it is given. -/
theorem State.Inv.withResponse {s : State} (hs : s.Inv) {r : Response} (hr : r.wf s.params.layout) :
    (s.withResponse r).Inv where
  lawful := hs.lawful
  inMax := hs.inMax
  lenW := hs.lenW
  nPorts := by simpa using hs.nPorts
  responses := by
    intro port hport r' hr'
    rcases List.mem_or_eq_of_mem_set hport with hold | rfl
    · exact hs.responses port hold r' hr'
    · cases hr'
      exact hr

/-- The invariant does not read the requests presented or the port being answered. -/
theorem State.Inv.serve {s : State} (hs : s.Inv) (pending : List Presented) (active : Nat) :
    ({ s with pending := pending, active := active } : State).Inv :=
  ⟨hs.lawful, hs.inMax, hs.lenW, hs.nPorts, hs.responses⟩

/-- Every instruction keeps the invariant. -/
theorem exec_keeps_inv {i : Instr} {s t : State} (hs : s.Inv) (h : exec i s = .next t) : t.Inv := by
  obtain ⟨r, -, rfl, hcan⟩ := exec_eq_next_canAnswer h
  exact hs.withResponse (hcan.wf hs.lawful)

/-- Settles O48: a step is idle, or runs one instruction in a state that differs in no field the invariant reads. -/
theorem stepKeepsGoodStates : Obligations.StepKeepsGoodStates := by
  intro s t hs h
  rcases step_eq_next h with ⟨-, rfl⟩ | ⟨p, rest, i, -, -, -, -, -, hexec, -⟩
  · exact hs
  · exact exec_keeps_inv (hs.serve rest p.port) hexec

/-- Settles O49: the parameters are at or above their bounds, and no port has a response. -/
theorem resetIsGood : Obligations.ResetIsGood where
  lawful := ⟨rfl, Layout.lawful_spec⟩
  inMax := by simp
  lenW := by simp
  nPorts := by simp
  responses := by
    intro port hport r hr
    rw [State.reset_ports] at hport
    rw [List.eq_of_mem_replicate hport] at hr
    cases hr

/-! ### `OUT` of the answered port -/

/-- Only output bytes give offsets of `OUT` a value: one offset per byte, from 0 on (R26, R40). -/
theorem State.CanAnswer.read_out_eq_some {s : State} {w : Nat} {r : Response} (h : s.CanAnswer w r) (a : Nat) :
    (∃ v, r.out.read a = some v) ↔ r.status = .ok ∧ a < w := by
  cases h with
  | error notOk _ => simp [Memory.read, notOk]
  | bytes length _ => simp [Memory.read_ofBytes, List.getElem?_eq_some_iff, ← length]
  | header _ | int | entry _ => simp [Memory.read]

/-- An offset of `OUT` of the answered port reads as the response has it. -/
theorem readOut_withResponse {s : State} {r : Response} (h : s.active < s.ports.length) (a : Nat) (v : Byte) :
    (s.withResponse r).readOut s.active a = .ok v ↔ r.out.read a = some v := by
  rw [State.readOut, readSignal_withResponse _ h]
  cases r.out.read a <;> simp

/-- An offset that the response does not list has no value to read. -/
theorem readOut_withResponse_of_eq_none {s : State} {r : Response} (h : s.active < s.ports.length) {a : Nat}
    (ha : r.out.read a = none) : (s.withResponse r).readOut s.active a = .error (.signalNotValid s.active) := by
  rw [State.readOut, readSignal_withResponse _ h]
  simp only [ha]

/-- Settles O59: the port holds the response, whose bytes are the offsets below the instruction's width. -/
theorem outHasValuesExactlyWhereProduced : Obligations.OutHasValuesExactlyWhereProduced := by
  intro i s t h a
  obtain ⟨r, hlt, rfl, hcan⟩ := exec_eq_next_canAnswer h
  simp only [readOut_withResponse hlt, readStatus_withResponse hlt, Except.ok.injEq]
  exact hcan.read_out_eq_some a

/-- Settles O44: an offset at or past the instruction's width is none of those that the response lists. -/
theorem outHoldsOnlyWhatTheRequestProduced : Obligations.OutHoldsOnlyWhatTheRequestProduced := by
  intro i s t h a ha
  obtain ⟨r, hlt, rfl, hcan⟩ := exec_eq_next_canAnswer h
  refine readOut_withResponse_of_eq_none hlt (Option.eq_none_iff_forall_ne_some.mpr fun v hv => ?_)
  obtain ⟨-, hwidth⟩ := (hcan.read_out_eq_some a).mp ⟨v, hv⟩
  exact Nat.not_lt.mpr ha hwidth

/-! ### The frame of an instruction -/

/-- Settles O43: all that an instruction does to the state is `State.withResponse`. -/
theorem instructionsChangeOnlyTheirPort : Obligations.InstructionsChangeOnlyTheirPort := by
  intro i s t h
  obtain ⟨r, -, rfl⟩ := exec_eq_next h
  exact ⟨rfl, rfl, rfl, rfl, rfl, length_withResponse, fun p hp => withResponse_of_ne hp,
    fun p a hp => readSignal_withResponse_of_ne _ hp⟩

/-- A delivery after a response on the same port leaves nothing of that response (R24). -/
theorem deliver_withResponse (s : State) (r r' : Response) : (s.withResponse r).deliver r' = s.deliver r' := by
  rcases Nat.lt_or_ge s.active s.ports.length with hlt | hle
  · rw [deliver_of_lt (by simpa using hlt), deliver_of_lt hlt, withResponse_withResponse]
  · rw [deliver_of_le (by simpa using hle), deliver_of_le hle, State.withResponse_active]

/-- Settles O42: both states have one build, so `j` delivers one response at both, in place of what `i` left. -/
theorem earlierRequestsLeaveNoTrace : Obligations.EarlierRequestsLeaveNoTrace := by
  intro i j s t h
  obtain ⟨r, -, rfl⟩ := exec_eq_next h
  rcases exec_cases_same_build (s := s.withResponse r) (u := s) rfl rfl j with ⟨r', ht, hs⟩ | ⟨hi, lo, ht, hs⟩
  · rw [ht, hs, deliver_withResponse]
  · rw [ht, hs]

/-- Settles O46: an instruction delivers, which faults on a port that does not exist, or refuses its flag field. -/
theorem missingPortStopsTheRequest : Obligations.MissingPortStopsTheRequest := by
  intro i s hport
  rcases exec_cases_canAnswer s i with ⟨r, hr, -⟩ | hrefused
  · exact .inl (hr.trans (deliver_of_le hport))
  · exact .inr hrefused

end Sys2Proof.Machine
end

section
/-!
Memory (20_memory.md): what a request reads of its input buffer (R47), and requests on different ports in either order (R52, R53).
-/

namespace Sys2Proof.Machine

/-! ### The input buffer -/

/-- Only `cmd = 0b000` reads `len`, and no command reads the bytes of `IN` at offset 48 and above (R47). -/
theorem decode_len_inpRest (q : Request) :
    (∀ len tail, decode { q with len := len, inpRest := tail } = .ok (decodeWire len q.inp))
    ∨ ∀ len tail, decode { q with len := len, inpRest := tail } = decode q := by
  by_cases hcmd : q.cmd = 0b000
  · exact .inl fun len tail => by simp [decode, hcmd]
  · refine .inr fun len tail => ?_
    unfold decode
    dsimp only
    split
    · next h => exact absurd (BitVec.eq_of_toNat_eq h) hcmd
    all_goals rfl

/-- DECODE compares `len` with 48 and reads it no further (R250, R251). -/
theorem decodeResponse_of_le (s : State) {len len' : Nat} (b : Header48) (h : 48 ≤ len) (h' : 48 ≤ len') :
    decodeResponse s len b = decodeResponse s len' b := by
  rw [decodeResponse, decodeResponse, if_neg h.not_gt, if_neg h'.not_gt]

/-- Where no PDU row matches, the instruction of a DECODE request carries `len`; that does not show from 48 on. -/
theorem exec_decodeWire_of_le (s : State) {len len' : Nat} (b : Header48) (h : 48 ≤ len) (h' : 48 ≤ len') :
    exec (decodeWire len b) s = exec (decodeWire len' b) s := by
  rw [decodeWire, decodeWire, if_neg h.not_gt, if_neg h'.not_gt]
  cases Tag.ofCode (opcodeOf b) with
  | some t => rfl
  | none => exact congrArg s.deliver (decodeResponse_of_le s b h h')

section OldestRequest

variable (s : State) (port : Nat) (rest : List Presented) {q q' : Request}

/-- A step reads nothing of the oldest request but what it decodes to. -/
theorem step_congr_decode (h : decode q = decode q') :
    step { s with pending := ⟨port, q⟩ :: rest } = step { s with pending := ⟨port, q'⟩ :: rest } := by
  simp only [step, h]

/-- Two requests whose instructions act alike are answered alike. -/
theorem step_congr_exec {i i' : Instr} (hq : decode q = .ok i) (hq' : decode q' = .ok i')
    (h : ∀ u, exec i u = exec i' u) :
    step { s with pending := ⟨port, q⟩ :: rest } = step { s with pending := ⟨port, q'⟩ :: rest } := by
  simp only [step, hq, hq', h]

end OldestRequest

/-- Settles O40: both requests are DECODE of at least 48 bytes, or they spell one instruction. -/
theorem bytesPast48DoNotMatter : Obligations.BytesPast48DoNotMatter := by
  intro s port len q tail hq hlen
  rcases decode_len_inpRest q with hwire | hsame
  · exact step_congr_exec s port s.pending (hwire len tail) (hwire q.len q.inpRest) fun u =>
      exec_decodeWire_of_le u q.inp hlen hq
  · exact step_congr_decode s port s.pending (hsame len tail)

/-! ### Requests on different ports -/

/-- A run that answers is a step that answers, and from there a run that answers. -/
theorem run_succ_eq_next {M : Host.Core} {k : Nat} {s t : M.State} :
    M.run (k + 1) s = .next t ↔ ∃ m, M.step s = .next m ∧ M.run k m = .next t := by
  rw [Host.Core.run]
  cases M.step s <;> simp

theorem run_two_eq_next {s t : State} :
    Sys2Proof.core.run 2 s = .next t ↔ ∃ m, step s = .next m ∧ step m = .next t := by
  constructor
  · intro h
    obtain ⟨m, hm, h⟩ := run_succ_eq_next.mp h
    obtain ⟨_, ht, ⟨⟩⟩ := run_succ_eq_next.mp h
    exact ⟨m, hm, ht⟩
  · rintro ⟨m, hm, ht⟩
    exact run_succ_eq_next.mpr ⟨m, hm, run_succ_eq_next.mpr ⟨t, ht, rfl⟩⟩

/-- On a port that exists, different responses leave different states. -/
theorem withResponse_inj {s : State} {r r' : Response} (hlt : s.active < s.ports.length)
    (h : s.withResponse r = s.withResponse r') : r = r' := by
  have hport := congrArg (fun t : State => t.ports[s.active]?) h
  simpa [hlt] using hport

/-- An instruction that answers has one response in all states of the build, whatever their ports hold (R3, R24). -/
theorem exec_eq_next_same_build {i : Instr} {s t : State} (h : exec i s = .next t) :
    ∃ r, t = s.withResponse r ∧ ∀ u : State, s.reg = u.reg → s.params = u.params → exec i u = u.deliver r := by
  obtain ⟨r, hlt, rfl⟩ := exec_eq_next h
  refine ⟨r, rfl, fun u hreg hparams => ?_⟩
  rcases exec_cases_same_build hreg hparams i with ⟨r', hs, hu⟩ | ⟨hi, lo, hs, -⟩
  · obtain ⟨-, hr⟩ := deliver_eq_next.mp (hs.symm.trans h)
    rw [withResponse_inj hlt hr, hu]
  · rw [hs] at h
    cases h

/-- `s` once the request `p` has the response `r`, with the requests `rest` still presented. -/
def State.answered (s : State) (p : Presented) (rest : List Presented) (r : Response) : State :=
  ({ s with pending := rest, active := p.port } : State).withResponse r

@[simp] theorem State.answered_ports (s : State) (p : Presented) (rest : List Presented) (r : Response) :
    (s.answered p rest r).ports = s.ports.set p.port { response := some r } := rfl

/-- A step that answers a request gives it the response that it has in all states with the same registry, parameters and number of
ports, whatever else is presented there and whatever the ports hold (R3, R24, R53). -/
theorem step_eq_next_same_build {s t : State} {p : Presented} {rest : List Presented} (h : step s = .next t)
    (hs : s.pending = p :: rest) :
    ∃ r, t = s.answered p rest r ∧
      ∀ (u : State) (rest' : List Presented), u.pending = p :: rest' → s.reg = u.reg → s.params = u.params →
        s.inReset = u.inReset → s.ports.length = u.ports.length → step u = .next (u.answered p rest' r) := by
  rcases step_eq_next h with ⟨hnil, -⟩ | ⟨p', rest', i, -, hpending, hr, hd, hport, hexec, -⟩
  · simp [hs] at hnil
  · obtain ⟨rfl, rfl⟩ := List.cons.inj (hs.symm.trans hpending)
    obtain ⟨r, rfl, hbuild⟩ := exec_eq_next_same_build hexec
    refine ⟨r, rfl, fun u rest' hu hreg hparams hreset hports => ?_⟩
    rw [step_of_decode_ok (hreset ▸ hr) hu hd, hbuild { u with pending := rest', active := p.port } hreg hparams]
    exact deliver_of_lt (hports ▸ hport)

/-- Settles O47: each request has the same response in both orders, and writes on different ports commute. -/
theorem orderOfPortsDoesNotMatter : Obligations.OrderOfPortsDoesNotMatter := by
  intro s t a b hne hrun
  obtain ⟨m, ha, hb⟩ := run_two_eq_next.mp hrun
  obtain ⟨ra, rfl, ha'⟩ := step_eq_next_same_build ha rfl
  obtain ⟨rb, rfl, hb'⟩ := step_eq_next_same_build hb rfl
  have hfirst := hb' { s with pending := [b, a] } [a] rfl rfl rfl rfl (by simp)
  have hsecond := ha' (({ s with pending := [b, a] } : State).answered b [a] rb) [] rfl rfl rfl rfl (by simp)
  refine ⟨_, run_two_eq_next.mpr ⟨_, hfirst, hsecond⟩, ?_, rfl, rfl, rfl⟩
  simp only [State.answered_ports]
  exact List.set_comm _ _ hne.symm

end Sys2Proof.Machine
end

section
/-!
Encoding (30_encoding.md): what each command code spells (R80), the encoder and the decoder, the reserved opcodes (R76), the
positions of a header that DECODE reads (R74), the positions that the default layouts name (R71), and the field kinds (R70).
-/

namespace Sys2Proof.Machine

/-! ### The opcode of a header -/

/-- Masking byte 0 with 0x3F takes its low six bits (R62). -/
theorem opcodeOf_eq_extractLsb' (b : Header48) : opcodeOf b = (b.read 0).extractLsb' 0 6 := by
  rw [opcodeOf]
  generalize b.read 0 = x
  revert x
  decide

/-- A code that is no tag's own is reserved (R76). -/
theorem ofCode_eq_none_iff {c : BitVec 6} : Tag.ofCode c = none ↔ ∀ t : Tag, c ≠ t.code := by
  simp only [Option.eq_none_iff_forall_ne_some, ne_eq, Tag.ofCode_eq_some]

/-! ### What a command code spells -/

section Commands

variable {q : Request}

theorem decode_of_cmd_decode (h : q.cmd = 0b000) : decode q = .ok (decodeWire q.len q.inp) := by
  simp [decode, h]

theorem decode_of_cmd_encode (h : q.cmd = 0b001) : decode q = .ok (pduOfHeader q.hdr) := by
  simp [decode, h]

theorem decode_of_cmd_u24Decode (h : q.cmd = 0b010) :
    decode q = .ok (.u24Decode ⟨[q.inp.read 0, q.inp.read 1, q.inp.read 2], rfl⟩) := by
  simp [decode, h]

theorem decode_of_cmd_u24Encode (h : q.cmd = 0b011) : decode q = .ok (.u24Encode q.v) := by
  simp [decode, h]

theorem decode_of_cmd_lookup (h : q.cmd = 0b110) : decode q = .ok (.lookup q.op6) := by
  simp [decode, h]

theorem decode_of_cmd_reserved (h : q.cmd = 0b111) : decode q = .error .reservedCommand := by
  simp [decode, h]

end Commands

/-- The eight command codes (R80, R81). -/
theorem cmd_cases (c : BitVec 3) :
    c = 0b000 ∨ c = 0b001 ∨ c = 0b010 ∨ c = 0b011 ∨ c = 0b100 ∨ c = 0b101 ∨ c = 0b110 ∨ c = 0b111 := by
  revert c
  decide

/-- A header of a registered opcode is its PDU row's (R75). -/
theorem decodeWire_of_registered {len : Nat} {b : Header48} {t : Tag} (hlen : 48 ≤ len) (ht : opcodeOf b = t.code) :
    decodeWire len b = pduOfWire t b := by
  rw [decodeWire, if_neg hlen.not_gt, ht, Tag.ofCode_code]

/-- What no PDU row matches is left to DECODE. -/
theorem decodeWire_of_noPduOnWire {len : Nat} {b : Header48} (h : noPduOnWire len b) :
    decodeWire len b = .decode len b := by
  rw [decodeWire]
  split
  · rfl
  · next hlen => rw [h.resolve_left hlen]

/-- A typed header with a registered tag is its PDU row's (R75, D29). -/
theorem pduOfHeader_of_registered {h : Header 32} {t : Tag} (ht : h.tag = t.code) :
    pduOfHeader h = pduOfTyped t h.common h.fields := by
  rw [pduOfHeader, ht, Tag.ofCode_code]

/-- A typed header that no PDU row matches is left to ENCODE. -/
theorem pduOfHeader_of_reserved {h : Header 32} (ht : Tag.ofCode h.tag = none) : pduOfHeader h = .encode h := by
  rw [pduOfHeader, ht]

/-- Settles O53: each code's instruction, and for the PDU codes what is left when no row's opcode matches. -/
theorem reservedCommandIsRefused : Obligations.ReservedCommandIsRefused := by
  refine ⟨fun q => ⟨fun hcmd => ?_, fun hcmd => ?_, decode_of_cmd_u24Decode, decode_of_cmd_u24Encode,
    decode_of_cmd_flagGet, decode_of_cmd_flagSet, decode_of_cmd_lookup, decode_of_cmd_reserved⟩, ?_⟩
  · simp only [decode_of_cmd_decode hcmd, ← opcodeOf_eq_extractLsb', ← ofCode_eq_none_iff]
    exact ⟨fun hno => congrArg _ (decodeWire_of_noPduOnWire hno),
      fun t hlen ht => congrArg _ (decodeWire_of_registered hlen ht)⟩
  · simp only [decode_of_cmd_encode hcmd, ← ofCode_eq_none_iff]
    exact ⟨fun hno => congrArg _ (pduOfHeader_of_reserved hno), fun t ht => congrArg _ (pduOfHeader_of_registered ht)⟩
  · intro s p rest hr hp hcmd
    simp [step, hp, hr, decode_of_cmd_reserved hcmd]

/-! ### The encoder and the decoder -/

/-- The PDU row of tag `t`, in either of its forms. -/
def pduOf (t : Tag) : Xfer → Instr
  | .wire b => pduOfWire t b
  | .typed c fields => pduOfTyped t c fields

/-- The request of a form of a PDU row spells that form of the row. -/
theorem decode_xferRequest (inMax : Nat) {t : Tag} {x : Xfer} (hx : x.wellFormed t) :
    decode (xferRequest inMax t x) = .ok (pduOf t x) := by
  cases x with
  | wire b => exact (decode_of_cmd_decode rfl).trans (congrArg _ (decodeWire_of_registered le_rfl hx))
  | typed c fields => exact (decode_of_cmd_encode rfl).trans (congrArg _ (pduOfHeader_of_registered rfl))

/-- `IN[0]` of a FLAG_GET or FLAG_SET request is the instruction's byte. -/
theorem read_zero_put_zero (x : Byte) : ((Bytes.zero 48).put 0 x).read 0 = x := by
  simp [Bytes.read_put]

/-- `IN[0..2]` of a U24_DECODE request are the instruction's bytes. -/
theorem read_memWriteBytes_zero (a : Bytes 3) {k : Nat} (hk : k < 3) :
    (memWriteBytes (Bytes.zero 48) 0 a.data).read k = a.read k := by
  rw [read_memWriteBytes, if_pos (by rw [a.data_length]; omega)]
  rfl

/-- A string of three bytes, byte by byte. -/
theorem bytes3_eq (a : Bytes 3) : (⟨[a.read 0, a.read 1, a.read 2], rfl⟩ : Bytes 3) = a := by
  conv_rhs => rw [← Bytes.tabulate_read a]
  rfl

/-- Settles O54: a PDU row's request spells the row by its form, and each other request carries its instruction's operands. -/
theorem decodeOfEncodedInstruction : Obligations.DecodeOfEncodedInstruction := by
  intro inMax i hi
  cases i with
  | decode len b => exact (decode_of_cmd_decode rfl).trans (congrArg _ (decodeWire_of_noPduOnWire hi))
  | encode h => exact (decode_of_cmd_encode rfl).trans (congrArg _ (pduOfHeader_of_reserved hi))
  | u24Decode a =>
    rw [decode_of_cmd_u24Decode rfl]
    simp only [encode, read_memWriteBytes_zero a (show 0 < 3 by decide), read_memWriteBytes_zero a (show 1 < 3 by decide),
      read_memWriteBytes_zero a (show 2 < 3 by decide), bytes3_eq]
  | u24Encode v => exact decode_of_cmd_u24Encode rfl
  | flagGet x hi lo =>
    rw [decode_of_cmd_flagGet rfl]
    simp only [encode, read_zero_put_zero]
  | flagSet x hi lo v =>
    rw [decode_of_cmd_flagSet rfl]
    simp only [encode, read_zero_put_zero]
  | lookup op6 => exact decode_of_cmd_lookup rfl
  | _ x =>
    refine (decode_xferRequest inMax hi).trans ?_
    cases x <;> rfl

/-- A header under the row of its own opcode is well formed. -/
theorem wellFormed_pduOfWire {t : Tag} {b : Header48} (h : opcodeOf b = t.code) : (pduOfWire t b).wellFormed := by
  cases t <;> exact h

/-- A typed header is well formed under every row. -/
theorem wellFormed_pduOfTyped (t : Tag) (c : Common 32) (fields : Fields) : (pduOfTyped t c fields).wellFormed := by
  cases t <;> trivial

theorem wellFormed_decodeWire (len : Nat) (b : Header48) : (decodeWire len b).wellFormed := by
  by_cases hno : noPduOnWire len b
  · rw [decodeWire_of_noPduOnWire hno]
    exact hno
  · obtain ⟨hlen, hop⟩ := not_or.mp hno
    obtain ⟨t, ht⟩ := Option.ne_none_iff_exists'.mp hop
    rw [Tag.ofCode_eq_some] at ht
    rw [decodeWire_of_registered (Nat.not_lt.mp hlen) ht]
    exact wellFormed_pduOfWire ht

theorem wellFormed_pduOfHeader (h : Header 32) : (pduOfHeader h).wellFormed := by
  cases ht : Tag.ofCode h.tag with
  | none =>
    rw [pduOfHeader_of_reserved ht]
    exact ht
  | some t =>
    rw [pduOfHeader_of_registered (Tag.ofCode_eq_some.mp ht)]
    exact wellFormed_pduOfTyped _ _ _

/-- Settles O55: by the command; only the two flag commands give a decoded instruction a condition that can fail. -/
theorem decodedInstructionIsWellFormed : Obligations.DecodedInstructionIsWellFormed := by
  intro q i h
  rcases cmd_cases q.cmd with hcmd | hcmd | hcmd | hcmd | hcmd | hcmd | hcmd | hcmd
  · cases (decode_of_cmd_decode hcmd).symm.trans h
    exact .inl (wellFormed_decodeWire _ _)
  · cases (decode_of_cmd_encode hcmd).symm.trans h
    exact .inl (wellFormed_pduOfHeader _)
  · cases (decode_of_cmd_u24Decode hcmd).symm.trans h
    exact .inl trivial
  · cases (decode_of_cmd_u24Encode hcmd).symm.trans h
    exact .inl trivial
  · cases (decode_of_cmd_flagGet hcmd).symm.trans h
    by_cases hlt : q.hi < q.lo
    · exact .inr ⟨hlt, .inl hcmd⟩
    · exact .inl (BitVec.not_lt.mp hlt)
  · cases (decode_of_cmd_flagSet hcmd).symm.trans h
    by_cases hlt : q.hi < q.lo
    · exact .inr ⟨hlt, .inr hcmd⟩
    · exact .inl (BitVec.not_lt.mp hlt)
  · cases (decode_of_cmd_lookup hcmd).symm.trans h
    exact .inl trivial
  · cases (decode_of_cmd_reserved hcmd).symm.trans h

/-! ### The words of the opcode table -/

/-- A one-byte table word is byte 0 of a header that is otherwise 0 (notes/assumptions/2.md). -/
theorem headerOfWord_byte {w : Nat} (hw : w < 256) : headerOfWord w = (Bytes.zero 48).put 0 (BitVec.ofNat 8 w) := by
  refine Bytes.ext_read fun k hk => ?_
  rw [headerOfWord, Bytes.read_tabulate, if_pos hk, Bytes.read_put, Bytes.read_zero]
  by_cases h0 : k = 0
  · subst h0
    rfl
  · have hlt : w < 2 ^ (8 * k) := hw.trans_le (Nat.pow_le_pow_right Nat.two_pos (show 8 ≤ 8 * k by omega))
    rw [if_neg (by omega), Nat.shiftRight_eq_div_pow, Nat.div_eq_of_lt hlt]
    rfl

/-- A one-byte word whose low six bits are a tag's opcode decodes to the tag's row (R62, R75). -/
theorem decodeTableWord_of_registered {w : Nat} {t : Tag} (hw : w < 256) (ht : BitVec.ofNat 6 w = t.code) :
    decodeTableWord 8 w = some (pduOfWire t ((Bytes.zero 48).put 0 (BitVec.ofNat 8 w))) := by
  have hop : opcodeOf ((Bytes.zero 48).put 0 (BitVec.ofNat 8 w)) = t.code := by
    rw [opcodeOf_eq_extractLsb', read_zero_put_zero, ← ht]
    apply BitVec.eq_of_toNat_eq
    simp
  have hreq : requestOfWord Layout.spec 8 w
      = { cmd := 0b000, len := 48, inp := (Bytes.zero 48).put 0 (BitVec.ofNat 8 w) } := by
    simp only [requestOfWord, Nat.mod_eq_of_lt (show w < 2 ^ 8 from hw), Nat.reduceLeDiff, if_true, ht, Tag.ofCode_code,
      headerOfWord_byte hw]
  rw [decodeTableWord, hreq, decode_of_cmd_decode rfl, decodeWire_of_registered le_rfl hop]

/-- Settles O57: each word by the rule for its row, each request by the rule for its command. -/
theorem wordsDecodeToTheirRows : Obligations.WordsDecodeToTheirRows :=
  ⟨decodeTableWord_of_registered (t := .nopOut) (by decide) rfl,
    decodeTableWord_of_registered (t := .scsiCmd) (by decide) rfl,
    decodeTableWord_of_registered (t := .r2t) (by decide) rfl,
    decodeTableWord_of_registered (t := .reject) (by decide) rfl,
    decode_of_cmd_lookup rfl,
    (decode_of_cmd_encode rfl).trans (congrArg _ (pduOfHeader_of_registered (t := .loginRsp) rfl)),
    decode_of_cmd_u24Decode rfl, decode_of_cmd_u24Encode rfl, decode_of_cmd_flagGet rfl, decode_of_cmd_flagSet rfl,
    (decode_of_cmd_decode rfl).trans (congrArg _ (decodeWire_of_noPduOnWire (.inl (by decide)))),
    decode_of_cmd_reserved rfl⟩

/-! ### Registered and reserved opcodes -/

/-- The four gaps of the table of R231 hold no tag's opcode (R76). -/
theorem ofCode_eq_none_of_gap (op : BitVec 6)
    (h : (0x07 ≤ op ∧ op ≤ 0x0F) ∨ (0x11 ≤ op ∧ op ≤ 0x1F) ∨ (0x27 ≤ op ∧ op ≤ 0x30) ∨ (0x33 ≤ op ∧ op ≤ 0x3E)) :
    Tag.ofCode op = none := by
  revert op
  decide

section SpecRegistry

variable {s : State} (hreg : s.reg = Registry.contents)
include hreg

/-- DECODE of a reserved opcode (R76, R292). -/
theorem decodeResponse_of_reserved {len : Nat} {b : Header48} (hlen : 48 ≤ len) (hop : Tag.ofCode (opcodeOf b) = none) :
    decodeResponse s len b = .error (.unknownOpcode (opcodeOf b)) := by
  have hvalid : (s.reg.entry (opcodeOf b)).valid = false := by
    rw [hreg, Registry.entry_contents, hop]
  rw [decodeResponse, if_neg hlen.not_gt, if_pos hvalid]

/-- DECODE of a registered opcode selects the arm of its tag (R252, R254). -/
theorem decodeResponse_of_registered {b : Header48} {t : Tag} (len : Nat) (hop : opcodeOf b = t.code) :
    decodeResponse s len b = if len < 48 then .error (.tooShort len) else decodeArm s t b := by
  simp [decodeResponse, hreg, hop]

end SpecRegistry

/-- Settles O12: a reserved opcode has no valid entry, and selects no arm of ENCODE. -/
theorem reservedOpcodesFail : Obligations.ReservedOpcodesFail := by
  intro s op hreg hport hgap
  have hop : Tag.ofCode op = none := ofCode_eq_none_of_gap op hgap
  refine ⟨fun len b hlen hb => ?_, fun c fields => ?_⟩
  · rw [← opcodeOf_eq_extractLsb'] at hb
    subst hb
    rw [exec, execDecode, decodeResponse_of_reserved hreg hlen hop, deliver_of_lt hport]
  · rw [exec, execEncode, encodeResponse, hop, deliver_of_lt hport]

/-! ### The positions DECODE reads -/

theorem named_iff {rows : List Row} {k i : Nat} :
    named rows k i = true
      ↔ (∃ kind ∈ Layout.common, kindCovers kind k i = true) ∨ ∃ r ∈ rows, kindCovers r.kind k i = true := by
  simp [named, List.any_append, List.any_map]

/-- Bytes 0, 4 to 7 and 16 to 19 are the common template's (R61). -/
theorem named_common (rows : List Row) {k i : Nat} (hk : k = 0 ∨ 4 ≤ k ∧ k < 8 ∨ 16 ≤ k ∧ k < 20) (hi : i < 8) :
    named rows k i = true := by
  refine named_iff.mpr (.inl ?_)
  simp only [Layout.common, kindCovers, List.exists_mem_cons_iff, Bool.and_eq_true, beq_iff_eq, decide_eq_true_eq]
  omega

/-- Two buffers with the same bits wherever the common template or a row names a position (R74). -/
def AgreeOnNamed (rows : List Row) (b b' : Header48) : Prop :=
  ∀ k i, k < 48 → i < 8 → named rows k i = true → (b.read k).getLsbD i = (b'.read k).getLsbD i

section Agree

variable {rows : List Row} {b b' : Header48} (h : AgreeOnNamed rows b b')
include h

theorem AgreeOnNamed.read_common {k : Nat} (hk : k = 0 ∨ 4 ≤ k ∧ k < 8 ∨ 16 ≤ k ∧ k < 20) : b.read k = b'.read k :=
  BitVec.eq_of_getLsbD_eq fun i hi => h k i (by omega) hi (named_common rows hk hi)

theorem AgreeOnNamed.opcodeOf_eq : opcodeOf b = opcodeOf b' := by
  rw [opcodeOf, opcodeOf, h.read_common (k := 0) (by omega)]

/-- The common fields lie in the bytes of the common template (R253). -/
theorem AgreeOnNamed.readCommon_eq : readCommon b = readCommon b' := by
  have hahs : memRead b 4 1 = memRead b' 4 1 := memRead_congr fun k hk => h.read_common (by omega)
  have hitt : memRead b 16 4 = memRead b' 16 4 := memRead_congr fun k hk => h.read_common (by omega)
  simp only [readCommon, hahs, hitt, h.read_common (k := 0) (by omega), h.read_common (k := 5) (by omega),
    h.read_common (k := 6) (by omega), h.read_common (k := 7) (by omega)]

theorem AgreeOnNamed.read_row {r : Row} (hr : r ∈ rows) (hin : r.kind.inHeader) : r.kind.read b = r.kind.read b' :=
  Kind.read_congr hin fun k i hk hi hc => h k i hk hi (named_iff.mpr (.inr ⟨r, hr, hc⟩))

theorem AgreeOnNamed.readFields_eq (hin : ∀ r ∈ rows, r.kind.inHeader) : readFields rows b = readFields rows b' :=
  List.map_congr_left fun r hr => by rw [h.read_row hr (hin r hr)]

/-- A field that a legal table has for a check reads the same bits of byte 1 as the check (R255). -/
theorem AgreeOnNamed.readFlag_eq {t : Tag} (hl : Layout.LawfulRows t rows) {f : Field} {hi lo : Nat}
    (hr : ⟨f, .sub 1 hi lo⟩ ∈ Layout.checked t) : readFlag (b.read 1) hi lo = readFlag (b'.read 1) hi lo :=
  BitVec.eq_of_toNat_eq (Value.num.inj (h.read_row (hl.checked _ hr) (hl.inHeader _ (hl.checked _ hr))))

/-- The checks read only fields that every legal table names. -/
theorem AgreeOnNamed.checkArm_eq {t : Tag} (hl : Layout.LawfulRows t rows) : checkArm t b = checkArm t b' := by
  cases t
  case scsiCmd => simp only [checkArm, checkScsiCmd, h.readFlag_eq hl List.mem_cons_self]
  case tmfReq => simp only [checkArm, checkTmfReq, h.readFlag_eq hl List.mem_cons_self]
  case loginReq | loginRsp =>
    simp only [checkArm, checkLogin, h.readFlag_eq hl List.mem_cons_self,
      h.readFlag_eq hl (List.mem_cons_of_mem _ List.mem_cons_self)]
  all_goals rfl

end Agree

/-- DECODE's common steps read no reserved position (R74, R264). -/
theorem AgreeOnNamed.decodeArm_eq {s : State} {t : Tag} {b b' : Header48} (h : AgreeOnNamed (s.rows t) b b')
    (hl : s.params.layout.lawful) : decodeArm s t b = decodeArm s t b' := by
  rw [decodeArm, decodeArm, h.opcodeOf_eq, h.checkArm_eq (hl t), h.readCommon_eq, h.readFields_eq (hl t).inHeader]

/-- Settles O39: both buffers select the arm of `t`, whose reads are all of named positions. -/
theorem reservedPositionsDoNotMatter : Obligations.ReservedPositionsDoNotMatter := by
  intro s len t b b' hs hop h
  obtain ⟨hreg, hlayout⟩ := hs
  have hagree : AgreeOnNamed (s.rows t) b b' := h
  rw [← opcodeOf_eq_extractLsb'] at hop
  have hop' : opcodeOf b' = t.code := hagree.opcodeOf_eq ▸ hop
  rw [exec, exec, execDecode, execDecode, decodeResponse_of_registered hreg len hop,
    decodeResponse_of_registered hreg len hop', hagree.decodeArm_eq hlayout]

/-! ### The positions of the default layouts -/

/-- Of kinds that share no position, at most one takes in a given bit (R71). -/
theorem length_filter_covers {kinds : List Kind} (hin : ∀ a ∈ kinds, a.inHeader) (hap : kinds.Pairwise Kind.apart)
    {k i : Nat} (hi : i < 8) :
    (kinds.filter fun a => kindCovers a k i).length = if kinds.any fun a => kindCovers a k i then 1 else 0 := by
  induction kinds with
  | nil => rfl
  | cons a kinds ih =>
    simp only [List.mem_cons, forall_eq_or_imp] at hin
    rw [List.pairwise_cons] at hap
    by_cases hc : kindCovers a k i = true
    · have hrest : kinds.filter (fun c => kindCovers c k i) = [] := List.filter_eq_nil_iff.mpr fun c hm =>
        Bool.eq_false_iff.mp (Kind.not_covers_of_apart hin.1 (hin.2 c hm) (hap.1 c hm) hi hc)
      simp [hc, hrest]
    · simpa [hc] using ih hin.2 hap.2

/-- The bits of byte `k` that a kind takes in, as a mask (R70). -/
def kindMask (kind : Kind) (k : Nat) : Byte :=
  match kind with
  | .bit o i => if k = o then fieldMask 1 <<< i else 0
  | .sub o hi lo => if k = o then fieldMask (hi - lo + 1) <<< lo else 0
  | .u8 o => if k = o then fieldMask 8 else 0
  | .be16 o => if o ≤ k ∧ k < o + 2 then fieldMask 8 else 0
  | .u24 o => if o ≤ k ∧ k < o + 3 then fieldMask 8 else 0
  | .be32 o => if o ≤ k ∧ k < o + 4 then fieldMask 8 else 0
  | .bytes o n => if o ≤ k ∧ k < o + n then fieldMask 8 else 0

/-- The mask of `w` bits from bit `lo` on, bit by bit. -/
theorem getLsbD_fieldMask_shiftLeft (w lo : Nat) {i : Nat} (hi : i < 8) :
    (fieldMask w <<< lo).getLsbD i = (decide (lo ≤ i) && decide (i < lo + w)) := by
  rw [BitVec.getLsbD_shiftLeft, getLsbD_fieldMask _ _ (by omega), Bool.eq_iff_iff]
  simp only [Bool.and_eq_true, Bool.not_eq_true', decide_eq_true_eq, decide_eq_false_iff_not]
  omega

theorem getLsbD_ite_zero (c : Prop) [Decidable c] (m : Byte) (i : Nat) :
    (if c then m else 0).getLsbD i = (decide c && m.getLsbD i) := by
  by_cases hc : c <;> simp [hc]

theorem getLsbD_kindMask {kind : Kind} (hk : kind.inHeader) {k i : Nat} (hi : i < 8) :
    (kindMask kind k).getLsbD i = kindCovers kind k i := by
  rw [Bool.eq_iff_iff]
  cases kind with
  | bit o j | sub o a l =>
    simp only [kindMask, kindCovers, getLsbD_ite_zero, getLsbD_fieldMask_shiftLeft _ _ hi, Bool.and_eq_true, beq_iff_eq,
      decide_eq_true_eq]
    omega
  | u8 o | be16 o | u24 o | be32 o | bytes o n =>
    simp only [kindMask, kindCovers, getLsbD_ite_zero, getLsbD_fieldMask _ _ hi, Bool.and_eq_true, beq_iff_eq,
      decide_eq_true_eq]
    omega

/-- The bits of byte `k` that some kind of a list takes in. -/
def kindsMask (kinds : List Kind) (k : Nat) : Byte :=
  kinds.foldr (fun a m => kindMask a k ||| m) 0

theorem getLsbD_kindsMask {kinds : List Kind} (hin : ∀ a ∈ kinds, a.inHeader) {k i : Nat} (hi : i < 8) :
    (kindsMask kinds k).getLsbD i = kinds.any fun a => kindCovers a k i := by
  induction kinds with
  | nil => simp [kindsMask]
  | cons a kinds ih =>
    simp only [List.mem_cons, forall_eq_or_imp] at hin
    rw [kindsMask, List.foldr_cons, BitVec.getLsbD_or, getLsbD_kindMask hin.1 hi, List.any_cons]
    exact congrArg _ (ih hin.2)

theorem inHeader_common : ∀ a ∈ Layout.common, a.inHeader := by
  simp [Layout.common, Kind.inHeader]

/-- The default tables name, byte by byte, the bits that the layout rules name (R71). -/
theorem kindsMask_spec (t : Tag) :
    ∀ k, k < 48 → kindsMask (Layout.common ++ (Layout.spec.rows t).map (·.kind)) k = namedBits t k := by
  cases t <;> decide

/-- Settles O10: a legal table names no position twice, and the default ones name those of `namedBits`. -/
theorem layoutsCoverHeaderOnce : Obligations.LayoutsCoverHeaderOnce := by
  intro t k i hk hi
  have hl := Layout.lawful_spec t
  have hin : ∀ a ∈ Layout.common ++ (Layout.spec.rows t).map (·.kind), a.inHeader := by
    simpa [or_imp, forall_and] using ⟨inHeader_common, hl.inHeader⟩
  have hap : (Layout.common ++ (Layout.spec.rows t).map (·.kind)).Pairwise Kind.apart :=
    hl.apart.sublist ((List.sublist_append_left ..).append_right _)
  rw [length_filter_covers hin hap hi, ← getLsbD_kindsMask hin hi, kindsMask_spec t k hk]

/-! ### The table of kinds -/

/-- FLAG_GET by division and remainder (R102). -/
theorem toNat_readFlag (x : Byte) (hi lo : Nat) :
    (readFlag x hi lo).toNat = x.toNat / 2 ^ lo % 2 ^ (hi - lo + 1) := by
  apply Nat.eq_of_testBit_eq
  intro j
  rw [testBit_readFlag, Nat.testBit_mod_two_pow, Nat.testBit_div_two_pow, BitVec.testBit_toNat, Nat.add_comm j]

/-- FLAG_GET of a single bit. -/
theorem toNat_readFlag_bit (x : Byte) (i : Nat) : (readFlag x i i).toNat = if x.getLsbD i then 1 else 0 := by
  rw [toNat_readFlag, Nat.sub_self, Nat.zero_add, Nat.pow_one, ← Nat.toNat_testBit, BitVec.testBit_toNat]
  cases x.getLsbD i <;> rfl

/-- FLAG_SET of an all-zero byte puts a value that fits its field at the field's place (R103). -/
theorem writeFlag_zero {hi lo v : Nat} (hv : v < 2 ^ (hi - lo + 1)) :
    writeFlag 0 hi lo (BitVec.ofNat 8 v) = BitVec.ofNat 8 v <<< lo := by
  apply BitVec.eq_of_getLsbD_eq
  intro i hi8
  rw [getLsbD_writeFlag _ _ _ _ _ hi8, BitVec.getLsbD_shiftLeft, BitVec.getLsbD_ofNat]
  by_cases hlo : lo ≤ i
  · by_cases hin : i < lo + (hi - lo + 1)
    · simp [hlo, hin, hi8, Nat.not_lt.mpr hlo]
    · have hzero : v.testBit (i - lo) = false :=
        Nat.testBit_lt_two_pow (hv.trans_le (Nat.pow_le_pow_right Nat.two_pos (by omega)))
      simp [hin, hzero]
  · simp [hlo, Nat.not_le.mp hlo]

/-- Two adjacent bit strings as one number, the second of 8 bits. -/
theorem toNat_append_byte {w : Nat} (x : BitVec w) (y : Byte) : (x ++ y).toNat = x.toNat * 256 + y.toNat := by
  rw [BitVec.toNat_append, ← Nat.shiftLeft_add_eq_or_of_lt y.isLt, Nat.shiftLeft_eq]

theorem memRead_one (b : Header48) (o : Nat) : memRead b o 1 = (b.read o).toNat := by
  simp [memRead]

theorem memRead_two (b : Header48) (o : Nat) : memRead b o 2 = (halfAt b o).toNat := by
  rw [memRead_succ b o 1, memRead_one, ← toNat_append_byte]

theorem memRead_three (b : Header48) (o : Nat) :
    memRead b o 3 = (b.read o ++ b.read (o + 1) ++ b.read (o + 2)).toNat := by
  rw [memRead_succ b o 2, memRead_two, ← toNat_append_byte]

theorem memRead_four (b : Header48) (o : Nat) : memRead b o 4 = (wordAt b o).toNat := by
  rw [memRead_succ b o 3, memRead_three, ← toNat_append_byte]

/-- `MemWrite` writes the most significant byte at the field's offset and the others after it (R10, R42). -/
theorem read_memWrite_succ (out : Header48) {o n : Nat} (h : o + (n + 1) ≤ 48) (v k : Nat) :
    (memWrite out o (n + 1) v).read k
      = if k = o then BitVec.ofNat 8 (v / 2 ^ (8 * n)) else (memWrite out (o + 1) n v).read k := by
  rw [read_memWrite, read_memWrite, ← Nat.shiftRight_eq_div_pow]
  by_cases hk : k = o
  · subst hk
    rw [if_pos (by omega), if_pos rfl, Nat.sub_self, Nat.add_sub_cancel, Nat.sub_zero]
  · have hin : (o ≤ k ∧ k < o + (n + 1) ∧ k < 48) ↔ (o + 1 ≤ k ∧ k < o + 1 + n ∧ k < 48) := by omega
    rw [if_neg hk]
    by_cases hfield : o + 1 ≤ k ∧ k < o + 1 + n ∧ k < 48
    · rw [if_pos (hin.mpr hfield), if_pos hfield, show n + 1 - 1 - (k - o) = n - 1 - (k - (o + 1)) by omega]
    · rw [if_neg (hin.not.mpr hfield), if_neg hfield]

theorem read_memWrite_one (out : Header48) {o : Nat} (h : o + 1 ≤ 48) (v k : Nat) :
    (memWrite out o 1 v).read k = if k = o then BitVec.ofNat 8 v else out.read k := by
  have hempty : memWrite out (o + 1) 0 v = out := rfl
  simpa [hempty] using read_memWrite_succ out h v k

theorem read_memWrite_two (out : Header48) {o : Nat} (h : o + 2 ≤ 48) (v k : Nat) :
    (memWrite out o 2 v).read k
      = if k = o then BitVec.ofNat 8 (v / 0x100) else if k = o + 1 then BitVec.ofNat 8 v else out.read k := by
  rw [← read_memWrite_one out (show o + 1 + 1 ≤ 48 from h)]
  exact read_memWrite_succ out h v k

theorem read_memWrite_three (out : Header48) {o : Nat} (h : o + 3 ≤ 48) (v k : Nat) :
    (memWrite out o 3 v).read k
      = if k = o then BitVec.ofNat 8 (v / 0x10000) else if k = o + 1 then BitVec.ofNat 8 (v / 0x100)
        else if k = o + 2 then BitVec.ofNat 8 v else out.read k := by
  rw [← read_memWrite_two out (show o + 1 + 2 ≤ 48 by omega)]
  exact read_memWrite_succ out h v k

theorem read_memWrite_four (out : Header48) {o : Nat} (h : o + 4 ≤ 48) (v k : Nat) :
    (memWrite out o 4 v).read k
      = if k = o then BitVec.ofNat 8 (v / 0x1000000) else if k = o + 1 then BitVec.ofNat 8 (v / 0x10000)
        else if k = o + 2 then BitVec.ofNat 8 (v / 0x100) else if k = o + 3 then BitVec.ofNat 8 v else out.read k := by
  rw [← read_memWrite_three out (show o + 1 + 3 ≤ 48 by omega)]
  exact read_memWrite_succ out h v k

/-- A `bit` or a `sub` field is OR-ed into its byte (R70). -/
theorem read_put_or_writeFlag (b : Header48) {o hi lo v : Nat} (ho : o < 48) (hv : v < 2 ^ (hi - lo + 1)) (k : Nat) :
    (b.put o (b.read o ||| writeFlag 0 hi lo (BitVec.ofNat 8 v))).read k
      = if k = o then b.read o ||| BitVec.ofNat 8 v <<< lo else b.read k := by
  rw [Bytes.read_put, writeFlag_zero hv]
  exact if_congr ⟨fun h => h.1.symm, fun h => ⟨h.symm, h ▸ ho⟩⟩ rfl rfl

/-- Settles O60: each column by the law of the operation it names. -/
theorem kindsReadAndWriteTheirColumns : Obligations.KindsReadAndWriteTheirColumns := by
  intro b
  refine ⟨fun o i ho hi => ?bit, fun o hi lo ho hhi hlo => ?sub, fun o ho => ?u8, fun o ho => ?be16, fun o ho => ?u24,
    fun o ho => ?be32, fun o n ho => ?bytes⟩
  case bit =>
    refine ⟨congrArg _ (toNat_readFlag_bit _ i), fun v => decide_eq_true_iff.trans Nat.lt_succ_iff, fun v hv k => ?_⟩
    exact read_put_or_writeFlag b ho (by rw [Nat.sub_self]; exact Nat.lt_succ_iff.mpr hv) k
  case sub =>
    exact ⟨congrArg _ (toNat_readFlag _ hi lo), fun v => decide_eq_true_iff, fun v hv k => read_put_or_writeFlag b ho hv k⟩
  case u8 => exact ⟨congrArg _ (memRead_one b o), fun v => decide_eq_true_iff, read_memWrite_one b ho⟩
  case be16 => exact ⟨congrArg _ (memRead_two b o), fun v => decide_eq_true_iff, read_memWrite_two b ho⟩
  case u24 =>
    exact ⟨congrArg _ (memRead_three b o), fun v => decide_eq_true_iff.trans Nat.lt_succ_iff, read_memWrite_three b ho⟩
  case be32 => exact ⟨congrArg _ (memRead_four b o), fun v => decide_eq_true_iff, read_memWrite_four b ho⟩
  case bytes =>
    refine ⟨⟨memReadBytes b o n, rfl, length_memReadBytes b o n, fun k hk => ?_⟩, fun a => beq_iff_eq, fun a ha k => ?_⟩
    · rw [getElem?_memReadBytes, if_pos hk]
    · rw [Kind.write, read_memWriteBytes, ha]
      exact if_congr (by omega) rfl rfl

end Sys2Proof.Machine
end

section
/-!
The Field Codec (40_field_codec.md): U24_DECODE and U24_ENCODE (R100, R101) and their round trips (R105), FLAG_GET and FLAG_SET
(R102, R103) and their laws (R106).
-/

namespace Sys2Proof.Machine

/-! ### The answers of the four requests -/

section Served

variable {s : State} (hport : s.active < s.ports.length)
include hport

theorem exec_u24Decode (b : Bytes 3) :
    exec (.u24Decode b) s = .next (s.withResponse (.ofInt (u24Unpack (b.read 0) (b.read 1) (b.read 2)))) :=
  deliver_of_lt hport

theorem exec_u24Encode_of_some {v : BitVec 32} {b : Bytes 3} (hv : u24Pack v = some b) :
    exec (.u24Encode v) s = .next (s.withResponse (.ofBytes b.data)) := by
  rw [exec, execU24Encode, hv]
  exact deliver_of_lt hport

theorem exec_u24Encode_of_none {v : BitVec 32} (hv : u24Pack v = none) :
    exec (.u24Encode v) s = .next (s.withResponse (.error .rangeError)) := by
  rw [exec, execU24Encode, hv]
  exact deliver_of_lt hport

theorem exec_flagGet_of_le (b : Byte) {hi lo : BitVec 3} (h : lo ≤ hi) :
    exec (.flagGet b hi lo) s = .next (s.withResponse (.ofInt (readFlag b hi.toNat lo.toNat))) := by
  rw [exec, execFlagGet, if_neg (BitVec.not_lt.mpr h)]
  exact deliver_of_lt hport

theorem exec_flagSet_of_le (b : Byte) {hi lo : BitVec 3} (v : BitVec 32) (h : lo ≤ hi) :
    exec (.flagSet b hi lo v) s
      = .next (s.withResponse (.ofBytes [writeFlag b hi.toNat lo.toNat (v.setWidth 8)])) := by
  rw [exec, execFlagSet, if_neg (BitVec.not_lt.mpr h)]
  exact deliver_of_lt hport

end Served

/-! ### The 24-bit codec -/

/-- A byte in the place that a shift by 8 left for it. -/
theorem toNat_shiftLeft_or_byte {x : BitVec 32} (hx : x.toNat < 0x1000000) (y : Byte) :
    (x <<< 8 ||| y.setWidth 32).toNat = x.toNat * 0x100 + y.toNat := by
  rw [BitVec.toNat_or, BitVec.toNat_shiftLeft, BitVec.toNat_setWidth_of_le (by decide), Nat.mod_eq_of_lt (by omega),
    ← Nat.shiftLeft_add_eq_or_of_lt y.isLt, Nat.shiftLeft_eq]

/-- The 24-bit value as a number, the first byte most significant (R42). -/
theorem toNat_u24Unpack (b0 b1 b2 : Byte) :
    (u24Unpack b0 b1 b2).toNat = (b0.toNat * 0x100 + b1.toNat) * 0x100 + b2.toNat := by
  have hbytes : u24Unpack b0 b1 b2 = (b0.setWidth 32 <<< 8 ||| b1.setWidth 32) <<< 8 ||| b2.setWidth 32 := by
    rw [BitVec.shiftLeft_or_distrib, ← BitVec.shiftLeft_add, u24Unpack]
  have h0 : (b0.setWidth 32).toNat = b0.toNat := BitVec.toNat_setWidth_of_le (by decide)
  have h01 : (b0.setWidth 32 <<< 8 ||| b1.setWidth 32).toNat = b0.toNat * 0x100 + b1.toNat := by
    rw [toNat_shiftLeft_or_byte (by omega), h0]
  rw [hbytes, toNat_shiftLeft_or_byte (by omega), h01]

/-- The 24-bit value is the three bytes side by side, under 8 zero bits (R100). -/
theorem u24Unpack_eq_append (b0 b1 b2 : Byte) : u24Unpack b0 b1 b2 = 0#8 ++ b0 ++ b1 ++ b2 := by
  apply BitVec.eq_of_toNat_eq
  rw [toNat_u24Unpack, toNat_append_byte, toNat_append_byte, toNat_append_byte, BitVec.toNat_ofNat]
  omega

/-- The three bytes that U24_ENCODE writes for a value in its domain (R101). -/
def u24Bytes (v : BitVec 32) : Bytes 3 :=
  ⟨[v.extractLsb' 16 8, v.extractLsb' 8 8, v.extractLsb' 0 8], rfl⟩

theorem u24Pack_of_le {v : BitVec 32} (hv : v.toNat ≤ 0xFFFFFF) : u24Pack v = some (u24Bytes v) :=
  if_neg (Nat.not_lt.mpr hv)

theorem u24Pack_of_gt {v : BitVec 32} (hv : 0xFFFFFF < v.toNat) : u24Pack v = none :=
  if_pos hv

/-- Decoding undoes encoding: a value in the domain is the three digits that its bytes are. -/
theorem u24Unpack_u24Bytes {v : BitVec 32} (hv : v.toNat ≤ 0xFFFFFF) :
    u24Unpack ((u24Bytes v).read 0) ((u24Bytes v).read 1) ((u24Bytes v).read 2) = v := by
  apply BitVec.eq_of_toNat_eq
  rw [toNat_u24Unpack]
  simp only [u24Bytes, Bytes.read, List.getD_cons_zero, List.getD_cons_succ, BitVec.extractLsb'_toNat,
    Nat.shiftRight_eq_div_pow]
  omega

/-- Decoded values are in the domain of U24_ENCODE. -/
theorem toNat_u24Unpack_le (b0 b1 b2 : Byte) : (u24Unpack b0 b1 b2).toNat ≤ 0xFFFFFF := by
  rw [toNat_u24Unpack]
  omega

/-- Encoding undoes decoding: the bytes are the digits of their 24-bit value. -/
theorem u24Bytes_u24Unpack (b : Bytes 3) : u24Bytes (u24Unpack (b.read 0) (b.read 1) (b.read 2)) = b := by
  conv_rhs => rw [← bytes3_eq b]
  simp only [u24Bytes, Bytes.mk.injEq, List.cons.injEq, and_true, ← BitVec.toNat_inj, BitVec.extractLsb'_toNat,
    Nat.shiftRight_eq_div_pow, toNat_u24Unpack]
  omega

/-- Settles O1: the three bytes side by side. -/
theorem u24DecodeIsBigEndian : Obligations.U24DecodeIsBigEndian := by
  intro s b hport
  rw [exec_u24Decode hport, u24Unpack_eq_append]

/-- Settles O2: `u24Pack` gives the bytes up to 0xFFFFFF, and nothing from 0x1000000 on. -/
theorem u24EncodeWritesThreeBytesOrFails : Obligations.U24EncodeWritesThreeBytesOrFails :=
  fun _ _ hport => ⟨fun hle => exec_u24Encode_of_some hport (u24Pack_of_le hle),
    fun hgt => exec_u24Encode_of_none hport (u24Pack_of_gt hgt)⟩

/-- Settles O3: `u24Bytes` and `u24Unpack` are inverse to each other, and a port's response tells decoded values apart. -/
theorem u24CodecRoundTrips : Obligations.U24CodecRoundTrips := by
  intro s hport
  refine ⟨fun v hv => ⟨u24Bytes v, ?encode, ?decode⟩, fun b => ⟨_, exec_u24Decode hport b, ?encodeDecoded⟩,
    fun a b hab => ?injective⟩
  case encode => exact exec_u24Encode_of_some hport (u24Pack_of_le hv)
  case decode => rw [exec_u24Decode hport, u24Unpack_u24Bytes hv]
  case encodeDecoded =>
    apply exec_u24Encode_of_some hport
    rw [u24Pack_of_le (toNat_u24Unpack_le ..), u24Bytes_u24Unpack]
  case injective =>
    rw [exec_u24Decode hport, exec_u24Decode hport, Host.Outcome.next.injEq] at hab
    have hvalue := congrArg Response.r (withResponse_inj hport hab)
    rw [Response.ofInt_r, Response.ofInt_r, Option.some.injEq] at hvalue
    rw [← u24Bytes_u24Unpack a, hvalue, u24Bytes_u24Unpack]

/-! ### The flag accessors -/

/-- The answer of FLAG_GET by division and remainder (R102). -/
theorem readFlag_eq_ofNat (b : Byte) (hi lo : Nat) :
    readFlag b hi lo = BitVec.ofNat 32 (b.toNat / 2 ^ lo % 2 ^ (hi - lo + 1)) := by
  rw [← toNat_readFlag, BitVec.ofNat_toNat, BitVec.setWidth_eq]

/-- The bits of the answer of FLAG_SET, of which only the low 8 bits of `v` are used (R103). -/
theorem getLsbD_writeFlag_setWidth (b : Byte) {hi lo : Nat} (v : BitVec 32) (h : lo ≤ hi) {i : Nat} (hi8 : i < 8) :
    (writeFlag b hi lo (v.setWidth 8)).getLsbD i
      = if lo ≤ i ∧ i ≤ hi then v.getLsbD (i - lo) else b.getLsbD i := by
  rw [getLsbD_writeFlag _ _ _ _ _ hi8, BitVec.getLsbD_setWidth, decide_eq_true (show i - lo < 8 by omega), Bool.true_and]
  exact if_congr (by omega) rfl rfl

/-- FLAG_SET then FLAG_GET gives the low bits of the value written (R106). -/
theorem readFlag_writeFlag (b : Byte) {hi lo : Nat} (v : BitVec 32) (h : lo ≤ hi) (hi8 : hi < 8) :
    readFlag (writeFlag b hi lo (v.setWidth 8)) hi lo = BitVec.ofNat 32 (v.toNat % 2 ^ (hi - lo + 1)) := by
  rw [← BitVec.setWidth_eq (readFlag _ hi lo), ← BitVec.ofNat_toNat]
  congr 1
  apply Nat.eq_of_testBit_eq
  intro j
  rw [testBit_readFlag, Nat.testBit_mod_two_pow, BitVec.testBit_toNat]
  by_cases hj : j < hi - lo + 1
  · rw [getLsbD_writeFlag_setWidth b v h (by omega), if_pos (by omega), Nat.add_sub_cancel_left]
  · rw [decide_eq_false hj, Bool.false_and, Bool.false_and]

/-- FLAG_SET of what FLAG_GET read changes nothing (R106). -/
theorem writeFlag_readFlag (b : Byte) {hi lo : Nat} (h : lo ≤ hi) :
    writeFlag b hi lo ((readFlag b hi lo).setWidth 8) = b := by
  apply BitVec.eq_of_getLsbD_eq
  intro i hi8
  rw [getLsbD_writeFlag_setWidth b _ h hi8]
  split
  next hin =>
    rw [← BitVec.testBit_toNat, testBit_readFlag, decide_eq_true (by omega), Bool.true_and, Nat.add_sub_cancel' hin.1]
  next => rfl

/-- Settles O4: `readFlag` by division and remainder. -/
theorem flagGetReadsField : Obligations.FlagGetReadsField := by
  refine fun s b hi lo hport => ⟨fun hle => ?_, fun hlt => exec_flagGet_of_lt b hlt s⟩
  rw [exec_flagGet_of_le hport b hle, readFlag_eq_ofNat]

/-- Settles O5: `writeFlag` bit by bit. -/
theorem flagSetWritesField : Obligations.FlagSetWritesField :=
  fun s b _ _ v hport => ⟨fun hle => ⟨_, exec_flagSet_of_le hport b v hle,
    fun _ hi8 => getLsbD_writeFlag_setWidth b v hle hi8⟩, fun hlt => exec_flagSet_of_lt b v hlt s⟩

/-- Settles O6: the laws of `readFlag` and `writeFlag`, on the answers of the two requests. -/
theorem flagAccessorLaws : Obligations.FlagAccessorLaws := by
  intro s b hi lo hport hle
  refine ⟨fun v => ⟨_, exec_flagSet_of_le hport b v hle, ?getOfSet, fun i hi8 hout => ?outside⟩,
    ⟨_, exec_flagGet_of_le hport b hle, ?setOfGet⟩⟩
  case getOfSet => rw [exec_flagGet_of_le hport _ hle, readFlag_writeFlag b v hle hi.isLt]
  case outside => rw [getLsbD_writeFlag_setWidth b v hle hi8, if_neg (by omega)]
  case setOfGet => rw [exec_flagSet_of_le hport b _ hle, writeFlag_readFlag b hle]

end Sys2Proof.Machine
end

section
/-!
The variants of the initiator (41_initiator_variants.md). First what holds of every variant: what its fields and its common part
read (R70, R253), and what ENCODE leaves in each byte of `OUT` (R73, R259, R260). A header that ENCODE answers is known by what it
reads as, so each of the eight variants needs only the reading of its table and the order of its bytes.
-/

namespace Sys2Proof.Machine

/-! ### The common part of a header -/

/-- The 24 bits of `data_length`, without the 8 zero bits that the 24-bit codec puts above them. -/
theorem setWidth_u24Unpack (b0 b1 b2 : Byte) : (u24Unpack b0 b1 b2).setWidth 24 = b0 ++ b1 ++ b2 := by
  apply BitVec.eq_of_toNat_eq
  rw [BitVec.toNat_setWidth, toNat_u24Unpack, toNat_append_byte, toNat_append_byte]
  omega

theorem readCommon_eq_commonAt (b : Header48) : readCommon b = commonAt b := by
  simp only [readCommon, memRead_one, memRead_four, BitVec.ofNat_toNat, BitVec.setWidth_eq, setWidth_u24Unpack]

theorem byteZero_eq_firstByte (c : Common 32) (code : BitVec 6) :
    byteZero c.retry c.immediate code = firstByte c (code.setWidth 8) := by
  cases hr : c.retry <;> cases hi : c.immediate <;> simp [byteZero, firstByte, flag, hr, hi]

/-! ### What a field reads -/

theorem toNat_readFlag_eq_extractLsb' (x : Byte) (hi lo : Nat) :
    (readFlag x hi lo).toNat = (x.extractLsb' lo (hi - lo + 1)).toNat := by
  rw [toNat_readFlag, BitVec.extractLsb'_toNat, Nat.shiftRight_eq_div_pow]

/-- The code that a check of DECODE reads is the field itself (R125, R129, R133). -/
theorem setWidth_readFlag (x : Byte) (hi lo : Nat) :
    (readFlag x hi lo).setWidth (hi - lo + 1) = x.extractLsb' lo (hi - lo + 1) :=
  BitVec.eq_of_toNat_eq ((toNat_setWidth_readFlag x hi lo).trans (toNat_readFlag_eq_extractLsb' x hi lo))

theorem read_bit (o i : Nat) (b : Header48) : (Kind.bit o i).read b = .num ((b.read o).getLsbD i).toNat := by
  rw [Kind.read, toNat_readFlag_bit]
  cases (b.read o).getLsbD i <;> rfl

theorem read_sub (o hi lo : Nat) (b : Header48) :
    (Kind.sub o hi lo).read b = .num ((b.read o).extractLsb' lo (hi - lo + 1)).toNat :=
  congrArg _ (toNat_readFlag_eq_extractLsb' _ hi lo)

theorem read_u8 (o : Nat) (b : Header48) : (Kind.u8 o).read b = .num (b.read o).toNat :=
  congrArg _ (memRead_one b o)

theorem read_be16 (o : Nat) (b : Header48) : (Kind.be16 o).read b = .num (halfAt b o).toNat :=
  congrArg _ (memRead_two b o)

theorem read_be32 (o : Nat) (b : Header48) : (Kind.be32 o).read b = .num (wordAt b o).toNat :=
  congrArg _ (memRead_four b o)

/-! ### The bytes of what was read -/

theorem half_halfAt (b : Header48) (o : Nat) : half (halfAt b o) = [b.read o, b.read (o + 1)] := by
  simp only [List.cons.injEq, and_true, ← BitVec.toNat_inj, BitVec.extractLsb'_toNat, Nat.shiftRight_eq_div_pow,
    toNat_append_byte]
  omega

theorem word_wordAt (b : Header48) (o : Nat) :
    word (wordAt b o) = [b.read o, b.read (o + 1), b.read (o + 2), b.read (o + 3)] := by
  simp only [List.cons.injEq, and_true, ← BitVec.toNat_inj, BitVec.extractLsb'_toNat, Nat.shiftRight_eq_div_pow,
    toNat_append_byte]
  omega

theorem and_shiftLeft_one (x : Byte) (i : Nat) : x &&& 1 <<< i = flag (x.getLsbD i) i :=
  BitVec.and_twoPow x i

theorem and_fieldMask_shiftLeft (x : Byte) (w lo : Nat) :
    x &&& fieldMask w <<< lo = flags (x.extractLsb' lo w) lo := by
  apply BitVec.eq_of_getLsbD_eq
  intro j hj
  rw [BitVec.getLsbD_and, getLsbD_fieldMask_shiftLeft _ _ hj]
  by_cases hlo : lo ≤ j
  · by_cases hw : j < lo + w
    · simp [hlo, hw, hj, Nat.not_lt.mpr hlo, show j - lo < w by omega]
    · simp [hlo, hw, hj, show ¬ j - lo < w by omega]
  · simp [hlo, Nat.not_le.mp hlo]

/-! ### What ENCODE leaves in each byte -/

/-- Every bit of a byte of the common template is one of its kinds' (R61). -/
theorem exists_common_covers {k i : Nat} (hk : k = 0 ∨ 4 ≤ k ∧ k < 8 ∨ 16 ≤ k ∧ k < 20) (hi : i < 8) :
    ∃ a ∈ Layout.common, kindCovers a k i = true := by
  simpa using named_iff.mp (named_common [] hk hi)

/-- Only the fixed positions of a tag hold anything before the variant fields are written (R257, R61, R130). -/
theorem getLsbD_writeCommon_of_not_fixed (tmfBit7 : Bool) {t : Tag} (c : Common 32) {k i : Nat} (hi : i < 8)
    (h : ∀ a ∈ Layout.fixed t, kindCovers a k i = false) : ((writeCommon tmfBit7 t c).read k).getLsbD i = false := by
  have hcommon : ¬ (k = 0 ∨ 4 ≤ k ∧ k < 8 ∨ 16 ≤ k ∧ k < 20) := fun hk => by
    obtain ⟨a, ha, hc⟩ := exists_common_covers hk hi
    exact Bool.eq_false_iff.mp (h a (List.mem_append_left _ ha)) hc
  rw [read_writeCommon, if_neg (by omega), if_neg (by omega), if_neg (by omega), if_neg (show k ≠ 0 by omega), fixedFlags]
  split
  next hk =>
    split
    next ht =>
      subst hk ht
      have h7 : i ≠ 7 := by simpa [kindCovers] using h (.bit 1 7) (by decide)
      rw [getLsbD_writeFlag _ _ _ _ _ hi, if_neg (by omega)]
      simp
    next => simp
  next => simp

/-- The fixed flags of byte 1 lie outside its fields (R127). -/
theorem fixedFlags_and_namedFlags (tmfBit7 : Bool) (t : Tag) : fixedFlags tmfBit7 t &&& namedFlags t = 0 := by
  cases tmfBit7 <;> cases t <;> rfl

theorem inHeader_fixed {t : Tag} : ∀ a ∈ Layout.fixed t, a.inHeader := by
  cases t <;> simp [Layout.fixed, Layout.common, Kind.inHeader]

section Rows

variable {t : Tag} {rows : List Row} (hl : Layout.LawfulRows t rows) {fields : Fields} (hf : fieldsFit rows fields = true)
include hl

/-- A row of a legal table takes in no fixed position of its tag. -/
theorem not_covers_of_fixed {a : Kind} (ha : a ∈ Layout.fixed t) {r : Row} (hr : r ∈ rows) {k i : Nat} (hi : i < 8)
    (hc : kindCovers a k i = true) : kindCovers r.kind k i = false := by
  obtain ⟨-, -, hfixed⟩ := List.pairwise_append.mp hl.apart
  exact Kind.not_covers_of_apart (inHeader_fixed a ha) (hl.inHeader r hr) (hfixed a ha _ (List.mem_map_of_mem hr)) hi hc

include hf

/-- The variant fields read back as they were given (R72, R73). -/
theorem readFields_writeFields_writeCommon (tmfBit7 : Bool) (c : Common 32) :
    readFields rows (writeFields rows fields (writeCommon tmfBit7 t c)) = fields := by
  obtain ⟨-, hrows, -⟩ := List.pairwise_append.mp hl.apart
  refine readFields_writeFields hl.inHeader hrows hf fun r hr k i _ hi hc => ?_
  refine getLsbD_writeCommon_of_not_fixed tmfBit7 c hi fun a ha => Bool.eq_false_iff.mpr fun ha' => ?_
  simp [not_covers_of_fixed hl ha hr hi ha'] at hc

/-- The variant fields leave the bytes of the common template as they were (R61). -/
theorem read_writeFields_common (out : Header48) {k : Nat} (hk : k = 0 ∨ 4 ≤ k ∧ k < 8 ∨ 16 ≤ k ∧ k < 20) :
    (writeFields rows fields out).read k = out.read k := by
  refine BitVec.eq_of_getLsbD_eq fun i hi => ?_
  obtain ⟨a, ha, hc⟩ := exists_common_covers hk hi
  exact writeFields_frame hl.inHeader hf out hi fun r hr => not_covers_of_fixed hl (List.mem_append_left _ ha) hr hi hc

end Rows

/-- `z` is the header of tag `t` with these common fields and these variant fields, in the default LAYOUT: it reads as them, and
where the layout rules name no bit it holds `P_TMF_BIT7` or 0 (R71, R73, R130, R259, R260). -/
structure IsImage (tmfBit7 : Bool) (t : Tag) (c : Common 32) (fields : Fields) (z : Header48) : Prop where
  readsAs : readFields (Layout.spec.rows t) z = fields
  first : z.read 0 = firstByte c (t.code.setWidth 8)
  byteOne : z.read 1 = z.read 1 &&& namedFlags t ||| fixedFlags tmfBit7 t
  lengthBytes : lengths c = [z.read 4, z.read 5, z.read 6, z.read 7]
  ittBytes : word c.itt = [z.read 16, z.read 17, z.read 18, z.read 19]
  reserved : ∀ k, k ≠ 1 → namedBits t k = 0 → z.read k = 0

section Image

variable (tmfBit7 : Bool) {t : Tag} (c : Common 32) {fields : Fields} (hf : fieldsFit (Layout.spec.rows t) fields = true)
include hf

/-- A bit that the layout rules do not name is left as ENCODE found it: clear, but for the fixed flags of byte 1 (R73, R130). -/
theorem getLsbD_writeFields_unnamed {k i : Nat} (hk : k < 48) (hi : i < 8) (hn : (namedBits t k).getLsbD i = false) :
    ((writeFields (Layout.spec.rows t) fields (writeCommon tmfBit7 t c)).read k).getLsbD i
      = (if k = 1 then fixedFlags tmfBit7 t else 0).getLsbD i := by
  have hl := Layout.lawful_spec t
  rw [← kindsMask_spec t k hk, getLsbD_kindsMask (by simpa [or_imp, forall_and] using ⟨inHeader_common, hl.inHeader⟩) hi,
    List.any_eq_false] at hn
  have hcommon : ¬ (k = 0 ∨ 4 ≤ k ∧ k < 8 ∨ 16 ≤ k ∧ k < 20) := fun hk => by
    obtain ⟨a, ha, hc⟩ := exists_common_covers hk hi
    exact hn a (List.mem_append_left _ ha) hc
  rw [writeFields_frame hl.inHeader hf _ hi fun r hr => Bool.eq_false_iff.mpr
      (hn _ (List.mem_append_right _ (List.mem_map_of_mem hr))),
    read_writeCommon, if_neg (by omega), if_neg (by omega), if_neg (by omega), if_neg (show k ≠ 0 by omega)]

/-- What ENCODE writes is the image of the header it was given. -/
theorem isImage_writeFields :
    IsImage tmfBit7 t c fields (writeFields (Layout.spec.rows t) fields (writeCommon tmfBit7 t c)) := by
  have hl := Layout.lawful_spec t
  have common := @read_writeFields_common _ _ hl _ hf (writeCommon tmfBit7 t c)
  refine ⟨readFields_writeFields_writeCommon hl hf tmfBit7 c, ?first, ?flags, ?lengths, ?itt, fun k hk1 hn => ?reserved⟩
  case first => rw [common (by omega), read_writeCommon, ← byteZero_eq_firstByte]; rfl
  case flags =>
    refine BitVec.eq_of_getLsbD_eq fun i hi => ?_
    rw [BitVec.getLsbD_or, BitVec.getLsbD_and]
    cases hn : (namedFlags t).getLsbD i with
    | false =>
      rw [getLsbD_writeFields_unnamed tmfBit7 c hf (k := 1) (by decide) hi hn, if_pos rfl, Bool.and_false, Bool.false_or]
    | true =>
      have hfixed := congrArg (·.getLsbD i) (fixedFlags_and_namedFlags tmfBit7 t)
      simp only [BitVec.getLsbD_and, hn, Bool.and_true] at hfixed
      rw [hfixed]
      simp
  case lengths | itt =>
    rw [common (by omega), common (by omega), common (by omega), common (by omega)]
    simp only [read_writeCommon]
    rfl
  case reserved =>
    by_cases hk : k < 48
    · refine BitVec.eq_of_getLsbD_eq fun i hi => ?_
      rw [getLsbD_writeFields_unnamed tmfBit7 c hf hk hi (by simp [hn]), if_neg hk1]
    · exact Bytes.read_of_le _ (Nat.not_lt.mp hk)

end Image

section OfImage

variable {tmfBit7 : Bool} {t : Tag} {c : Common 32} {fields : Fields} {z : Header48} (h : IsImage tmfBit7 t c fields z)
include h

/-- The bytes of an image in wire order, with those of the common template written out (R61). -/
theorem IsImage.data_eq : z.data = [firstByte c (t.code.setWidth 8), z.read 1, z.read 2, z.read 3] ++ lengths c ++
    [z.read 8, z.read 9, z.read 10, z.read 11, z.read 12, z.read 13, z.read 14, z.read 15] ++ word c.itt ++
    [z.read 20, z.read 21, z.read 22, z.read 23, z.read 24, z.read 25, z.read 26, z.read 27,
     z.read 28, z.read 29, z.read 30, z.read 31, z.read 32, z.read 33, z.read 34, z.read 35,
     z.read 36, z.read 37, z.read 38, z.read 39, z.read 40, z.read 41, z.read 42, z.read 43,
     z.read 44, z.read 45, z.read 46, z.read 47] := by
  rw [h.lengthBytes, h.ittBytes, ← h.first]
  exact Bytes.data_eq z

/-- Byte 1 of an image, but for a Task Management Request: its fields and nothing else (R73). -/
theorem IsImage.read_one {m : Byte} (hm : namedFlags t = m) (ht : fixedFlags tmfBit7 t = 0) : z.read 1 = z.read 1 &&& m := by
  conv_lhs => rw [h.byteOne, ht, hm]
  exact BitVec.or_zero

end OfImage

theorem fixedFlags_tmfReq (tmfBit7 : Bool) : fixedFlags tmfBit7 .tmfReq = flag tmfBit7 7 := by
  cases tmfBit7 <;> rfl

/-! ### The answers of a PDU row -/

theorem exec_pduOfWire (t : Tag) (b : Header48) (s : State) : exec (pduOfWire t b) s = s.deliver (decodeArm s t b) := by
  cases t <;> rfl

theorem exec_pduOfTyped (t : Tag) (c : Common 32) (fields : Fields) (s : State) :
    exec (pduOfTyped t c fields) s = s.deliver (encodeArm s t c fields) := by
  cases t <;> rfl

section Serving

variable {s : State} (hs : s.serving) {t : Tag}
include hs

/-- DECODE of a header that passes the check of its tag (R253, R254, R256). -/
theorem exec_wire_of_passes {b : Header48} (hop : (b.read 0).extractLsb' 0 6 = t.code) (hcheck : checkArm t b = none) :
    exec (pduOfWire t b) s
      = .next (s.withResponse (.ofHeader ⟨commonAt b, t.code, readFields (Layout.spec.rows t) b⟩)) := by
  obtain ⟨⟨hreg, hlayout⟩, hport⟩ := hs
  rw [← opcodeOf_eq_extractLsb'] at hop
  simp [exec_pduOfWire, deliver_of_lt hport, decodeArm, hreg, hop, hcheck, readCommon_eq_commonAt, State.rows, hlayout]

/-- DECODE of a header that fails the check of its tag (R255, R298). -/
theorem exec_wire_of_fails {b : Header48} {st : Status} (hop : (b.read 0).extractLsb' 0 6 = t.code)
    (hcheck : checkArm t b = some st) : exec (pduOfWire t b) s = .next (s.withResponse (.error st)) := by
  obtain ⟨⟨hreg, -⟩, hport⟩ := hs
  rw [← opcodeOf_eq_extractLsb'] at hop
  simp [exec_pduOfWire, deliver_of_lt hport, decodeArm, hreg, hop, hcheck]

variable {c : Common 32} {fields : Fields}

/-- ENCODE of a header in its domain answers the bytes of the header's image (R257). -/
theorem exec_typed_of_inDomain {bs : List Byte} (hlen : c.dataLength.toNat ≤ 0xFFFFFF)
    (hf : fieldsFit (Layout.spec.rows t) fields = true) (hdom : domainArm t fields = true)
    (himage : ∀ z, IsImage s.params.tmfBit7 t c fields z → z.data = bs) :
    exec (pduOfTyped t c fields) s = .next (s.withResponse (.ofBytes bs)) := by
  obtain ⟨⟨hreg, hlayout⟩, hport⟩ := hs
  simp [exec_pduOfTyped, deliver_of_lt hport, encodeArm, hreg, Nat.not_lt.mpr hlen, State.rows, hlayout, hf, hdom,
    himage _ (isImage_writeFields s.params.tmfBit7 c hf)]

/-- ENCODE of a header out of its domain (R258). -/
theorem exec_typed_of_outOfDomain (h : 0x1000000 ≤ c.dataLength.toNat ∨ ¬ domainArm t fields = true) :
    exec (pduOfTyped t c fields) s = .next (s.withResponse (.error .rangeError)) := by
  obtain ⟨-, hport⟩ := hs
  rw [exec_pduOfTyped, deliver_of_lt hport]
  rcases encodeArm_cases s t c fields with ⟨-, herror⟩ | ⟨-, hlen, -, hdom, -⟩
  · rw [herror]
  · exact absurd hdom (h.resolve_left (by omega))

end Serving

/-- A header of a variant without a check, in both directions: what remains for the variant is how its table reads (`hread`) and
the order of its bytes (`himage`). -/
theorem decodesAndEncodes_of_unchecked {t : Tag} {V : Type} {fields : V → Fields} {fieldsAt : Header48 → V}
    {image : Common 32 → V → List Byte} (hcheck : ∀ b, checkArm t b = none) (hdom : ∀ v, domainArm t (fields v) = true)
    (hfit : ∀ v, fieldsFit (Layout.spec.rows t) (fields v) = true)
    (hread : ∀ b, readFields (Layout.spec.rows t) b = fields (fieldsAt b))
    (himage : ∀ tmfBit7 c v z, IsImage tmfBit7 t c (fields v) z → z.data = image c v) {s : State} (hs : s.serving) :
    (∀ b : Header48, (b.read 0).extractLsb' 0 6 = t.code →
        exec (pduOfWire t b) s = .next (s.withResponse (.ofHeader ⟨commonAt b, t.code, fields (fieldsAt b)⟩)))
    ∧ (∀ (c : Common 32) (v : V), c.dataLength.toNat ≤ 0xFFFFFF →
        exec (pduOfTyped t c (fields v)) s = .next (s.withResponse (.ofBytes (image c v))))
    ∧ (∀ (c : Common 32) (v : V), 0x1000000 ≤ c.dataLength.toNat →
        exec (pduOfTyped t c (fields v)) s = .next (s.withResponse (.error .rangeError))) :=
  ⟨fun b hop => hread b ▸ exec_wire_of_passes hs hop (hcheck b),
    fun c v hlen => exec_typed_of_inDomain hs hlen (hfit v) (hdom v) (himage _ c v),
    fun _ _ hlen => exec_typed_of_outOfDomain hs (.inl hlen)⟩

/-! ### The records of the variants -/

theorem toNat_bool_inj {x y : Bool} : x.toNat = y.toNat ↔ x = y := by
  cases x <;> cases y <;> simp

theorem bytes_data_inj {n : Nat} {a b : Bytes n} : a.data = b.data ↔ a = b := by
  rw [Bytes.mk.injEq]

/-! ### NOP_OUT -/

theorem nopOutFields_injective : Function.Injective NopOutFields.fields := by
  rintro ⟨⟩ ⟨⟩ h
  simpa [NopOutFields.fields, BitVec.toNat_inj, toNat_bool_inj, bytes_data_inj] using h

/-- R121: the fields of a NOP_OUT header. -/
theorem readFields_nopOut (b : Header48) : readFields Layout.nopOut b
    = ({ final := flagAt b 7, lun := eightAt b 8, ttt := wordAt b 20, cmdsn := wordAt b 24,
         expStatsn := wordAt b 28 } : NopOutFields).fields := by
  simp only [readFields, Layout.nopOut, List.map_cons, read_bit, read_be32]
  rfl

/-- R122: the bytes of a NOP_OUT header. -/
theorem data_nopOut {p : Bool} {c : Common 32} {v : NopOutFields} {z : Header48} (h : IsImage p .nopOut c v.fields z) :
    z.data = [firstByte c 0x00] ++ [flag v.final 7] ++ zeros 2 ++ lengths c ++ v.lun.data ++ word c.itt ++
      word v.ttt ++ word v.cmdsn ++ word v.expStatsn ++ zeros 16 := by
  obtain rfl := nopOutFields_injective (h.readsAs.symm.trans (readFields_nopOut z))
  have hflags : z.read 1 = flag (flagAt z 7) 7 := (h.read_one (m := 1 <<< 7) rfl rfl).trans (and_shiftLeft_one _ 7)
  rw [h.data_eq, ← hflags]
  simp (disch := decide) only [word_wordAt, h.reserved]
  rfl

/-- Settles O13: NOP_OUT has no check, and its table reads as R121 says. -/
theorem nopOutDecodesAndEncodes : Obligations.NopOutDecodesAndEncodes := fun _ hs =>
  decodesAndEncodes_of_unchecked (t := .nopOut) (fun _ => rfl) (fun _ => rfl) NopOutFields.fields_fit readFields_nopOut
    (fun _ _ _ _ => data_nopOut) hs

/-! ### SCSI_CMD -/

theorem scsiCmdFields_injective : Function.Injective ScsiCmdFields.fields := by
  rintro ⟨⟩ ⟨⟩ h
  simpa [ScsiCmdFields.fields, BitVec.toNat_inj, toNat_bool_inj, bytes_data_inj] using h

/-- R124: the fields of a SCSI_CMD header. -/
theorem readFields_scsiCmd (b : Header48) : readFields Layout.scsiCmd b
    = ({ final := flagAt b 7, read := flagAt b 6, write := flagAt b 5, attr := flagsAt b 0 3, lun := eightAt b 8,
         expXferLength := wordAt b 20, cmdsn := wordAt b 24, expStatsn := wordAt b 28,
         cdb := sixteenAt b 32 } : ScsiCmdFields).fields := by
  simp only [readFields, Layout.scsiCmd, List.map_cons, read_bit, read_sub, read_be32]
  rfl

/-- R126: the bytes of a SCSI_CMD header. -/
theorem data_scsiCmd {p : Bool} {c : Common 32} {v : ScsiCmdFields} {z : Header48} (h : IsImage p .scsiCmd c v.fields z) :
    z.data = [firstByte c 0x01] ++ [flag v.final 7 ||| flag v.read 6 ||| flag v.write 5 ||| flags v.attr 0] ++ zeros 2 ++
      lengths c ++ v.lun.data ++ word c.itt ++ word v.expXferLength ++ word v.cmdsn ++ word v.expStatsn ++ v.cdb.data := by
  obtain rfl := scsiCmdFields_injective (h.readsAs.symm.trans (readFields_scsiCmd z))
  have hflags : z.read 1 = flag (flagAt z 7) 7 ||| flag (flagAt z 6) 6 ||| flag (flagAt z 5) 5 ||| flags (flagsAt z 0 3) 0 := by
    simpa only [BitVec.and_or_distrib_left, and_shiftLeft_one, and_fieldMask_shiftLeft] using
      h.read_one (m := 1 <<< 7 ||| 1 <<< 6 ||| 1 <<< 5 ||| fieldMask 3 <<< 0) rfl rfl
  rw [h.data_eq, ← hflags]
  simp (disch := decide) only [word_wordAt, h.reserved]
  rfl

/-- The check of R125: codes 5, 6 and 7 have no enumerant. -/
theorem checkArm_scsiCmd (b : Header48) :
    checkArm .scsiCmd b = if 4 < (flagsAt b 0 3).toNat then some (.invalidAttribute (flagsAt b 0 3)) else none := by
  have hattr : (readFlag (b.read 1) 2 0).setWidth 3 = flagsAt b 0 3 := setWidth_readFlag _ 2 0
  simp only [checkArm, checkScsiCmd, hattr, Option.isNone_iff_eq_none, taskAttributeOf_eq_none]

/-- The domain of R258 on the record of a SCSI_CMD header. -/
theorem domainArm_scsiCmd (v : ScsiCmdFields) : domainArm .scsiCmd v.fields = true ↔ v.attr.toNat ≤ 4 := by
  change (!decide (4 < v.attr.toNat)) = true ↔ _
  simp

/-- Settles O14: the check of R125 and the domain of R258 both ask for an `attr` of at most 4. -/
theorem scsiCmdDecodesAndEncodes : Obligations.ScsiCmdDecodesAndEncodes := by
  refine fun s hs => ⟨fun b hop hattr => ?decode, fun b hop hattr => ?invalid, fun c v hlen hattr => ?encode,
    fun c v hout => ?range⟩
  case decode =>
    rw [← readFields_scsiCmd]
    exact exec_wire_of_passes (t := .scsiCmd) hs hop (by rw [checkArm_scsiCmd, if_neg (Nat.not_lt.mpr hattr)])
  case invalid => exact exec_wire_of_fails (t := .scsiCmd) hs hop (by rw [checkArm_scsiCmd, if_pos hattr])
  case encode =>
    exact exec_typed_of_inDomain (t := .scsiCmd) hs hlen v.fields_fit ((domainArm_scsiCmd v).mpr hattr)
      fun _ => data_scsiCmd
  case range =>
    rw [← Nat.not_le (b := 4), ← domainArm_scsiCmd] at hout
    exact exec_typed_of_outOfDomain (t := .scsiCmd) hs hout

/-! ### TMF_REQ -/

theorem tmfReqFields_injective : Function.Injective TmfReqFields.fields := by
  rintro ⟨⟩ ⟨⟩ h
  simpa [TmfReqFields.fields, BitVec.toNat_inj, toNat_bool_inj, bytes_data_inj] using h

/-- R128: the fields of a TMF_REQ header. -/
theorem readFields_tmfReq (b : Header48) : readFields Layout.tmfReq b
    = ({ function := flagsAt b 0 7, lun := eightAt b 8, rtt := wordAt b 20, cmdsn := wordAt b 24,
         expStatsn := wordAt b 28, refcmdsn := wordAt b 32, expDatasn := wordAt b 36 } : TmfReqFields).fields := by
  simp only [readFields, Layout.tmfReq, List.map_cons, read_sub, read_be32]
  rfl

/-- R130: the bytes of a TMF_REQ header. -/
theorem data_tmfReq {p : Bool} {c : Common 32} {v : TmfReqFields} {z : Header48} (h : IsImage p .tmfReq c v.fields z) :
    z.data = [firstByte c 0x02] ++ [flag p 7 ||| flags v.function 0] ++ zeros 2 ++ lengths c ++ v.lun.data ++ word c.itt ++
      word v.rtt ++ word v.cmdsn ++ word v.expStatsn ++ word v.refcmdsn ++ word v.expDatasn ++ zeros 8 := by
  obtain rfl := tmfReqFields_injective (h.readsAs.symm.trans (readFields_tmfReq z))
  have hflags : z.read 1 = flag p 7 ||| flags (flagsAt z 0 7) 0 := by
    have hnamed : z.read 1 &&& namedFlags .tmfReq = flags (flagsAt z 0 7) 0 := and_fieldMask_shiftLeft (z.read 1) 7 0
    rw [← hnamed, ← fixedFlags_tmfReq, BitVec.or_comm]
    exact h.byteOne
  rw [h.data_eq, ← hflags]
  simp (disch := decide) only [word_wordAt, h.reserved]
  rfl

/-- The check of R129: functions 0 and 9 to 127 have no enumerant. -/
theorem checkArm_tmfReq (b : Header48) :
    checkArm .tmfReq b = if (flagsAt b 0 7).toNat < 1 ∨ 8 < (flagsAt b 0 7).toNat
      then some (.unknownFunction (flagsAt b 0 7)) else none := by
  have hfunction : (readFlag (b.read 1) 6 0).setWidth 7 = flagsAt b 0 7 := setWidth_readFlag _ 6 0
  simp only [checkArm, checkTmfReq, hfunction, Option.isNone_iff_eq_none, tmfFunctionOf_eq_none, Nat.lt_one_iff]

/-- The domain of R258 on the record of a TMF_REQ header. -/
theorem domainArm_tmfReq (v : TmfReqFields) :
    domainArm .tmfReq v.fields = true ↔ 1 ≤ v.function.toNat ∧ v.function.toNat ≤ 8 := by
  change (!(decide (v.function.toNat < 1) || decide (8 < v.function.toNat))) = true ↔ _
  simp [Nat.one_le_iff_ne_zero]

/-- Settles O15: the check of R129 and the domain of R258 both ask for a function from 1 to 8. -/
theorem tmfReqDecodesAndEncodes : Obligations.TmfReqDecodesAndEncodes := by
  refine fun s hs => ⟨fun b hop hlow hhigh => ?decode, fun b hop hfunction => ?unknown, fun c v hlen hlow hhigh => ?encode,
    fun c v hout => ?range⟩
  case decode =>
    rw [← readFields_tmfReq]
    exact exec_wire_of_passes (t := .tmfReq) hs hop (by rw [checkArm_tmfReq, if_neg (by omega)])
  case unknown => exact exec_wire_of_fails (t := .tmfReq) hs hop (by rw [checkArm_tmfReq, if_pos hfunction])
  case encode =>
    exact exec_typed_of_inDomain (t := .tmfReq) hs hlen v.fields_fit ((domainArm_tmfReq v).mpr ⟨hlow, hhigh⟩)
      fun _ => data_tmfReq
  case range =>
    exact exec_typed_of_outOfDomain (t := .tmfReq) hs (hout.imp_right fun hfunction => by rw [domainArm_tmfReq]; omega)

/-! ### LOGIN_REQ -/

theorem loginReqFields_injective : Function.Injective LoginReqFields.fields := by
  rintro ⟨⟩ ⟨⟩ h
  simpa [LoginReqFields.fields, BitVec.toNat_inj, toNat_bool_inj, bytes_data_inj] using h

/-- R132: the fields of a LOGIN_REQ header. -/
theorem readFields_loginReq (b : Header48) : readFields Layout.loginReq b
    = ({ transit := flagAt b 7, cont := flagAt b 6, csg := flagsAt b 2 2, nsg := flagsAt b 0 2,
         maxVersion := b.read 2, minVersion := b.read 3, isid := sixAt b 8, tsih := halfAt b 14, cid := halfAt b 20,
         cmdsn := wordAt b 24, expStatsn := wordAt b 28 } : LoginReqFields).fields := by
  simp only [readFields, Layout.loginReq, List.map_cons, read_bit, read_sub, read_u8, read_be16, read_be32]
  rfl

/-- R134: the bytes of a LOGIN_REQ header. -/
theorem data_loginReq {p : Bool} {c : Common 32} {v : LoginReqFields} {z : Header48} (h : IsImage p .loginReq c v.fields z) :
    z.data = [firstByte c 0x03] ++ [flag v.transit 7 ||| flag v.cont 6 ||| flags v.csg 2 ||| flags v.nsg 0] ++
      [v.maxVersion] ++ [v.minVersion] ++ lengths c ++ v.isid.data ++ half v.tsih ++ word c.itt ++ half v.cid ++ zeros 2 ++
      word v.cmdsn ++ word v.expStatsn ++ zeros 16 := by
  obtain rfl := loginReqFields_injective (h.readsAs.symm.trans (readFields_loginReq z))
  have hflags : z.read 1 =
      flag (flagAt z 7) 7 ||| flag (flagAt z 6) 6 ||| flags (flagsAt z 2 2) 2 ||| flags (flagsAt z 0 2) 0 := by
    simpa only [BitVec.and_or_distrib_left, and_shiftLeft_one, and_fieldMask_shiftLeft] using
      h.read_one (m := 1 <<< 7 ||| 1 <<< 6 ||| fieldMask 2 <<< 2 ||| fieldMask 2 <<< 0) rfl rfl
  rw [h.data_eq, ← hflags]
  simp (disch := decide) only [half_halfAt, word_wordAt, h.reserved]
  rfl

/-- The check of R133 and R180: stage 2 has no enumerant, in either field. -/
theorem checkLogin_eq (b : Header48) :
    checkLogin b = if flagsAt b 2 2 = 2 ∨ flagsAt b 0 2 = 2 then some (.invalidStage 2) else none := by
  have hcsg : (readFlag (b.read 1) 3 2).setWidth 2 = flagsAt b 2 2 := setWidth_readFlag _ 3 2
  have hnsg : (readFlag (b.read 1) 1 0).setWidth 2 = flagsAt b 0 2 := setWidth_readFlag _ 1 0
  simp only [checkLogin, hcsg, hnsg, Option.isNone_iff_eq_none, loginStageOf_eq_none]
  by_cases h1 : flagsAt b 2 2 = 2
  · rw [if_pos h1, if_pos (.inl h1), h1]
  · by_cases h2 : flagsAt b 0 2 = 2
    · rw [if_neg h1, if_pos h2, if_pos (.inr h2), h2]
    · rw [if_neg h1, if_neg h2, if_neg (not_or.mpr ⟨h1, h2⟩)]

/-- The domain of R258 on the record of a LOGIN_REQ header. -/
theorem domainArm_loginReq (v : LoginReqFields) :
    domainArm .loginReq v.fields = true ↔ v.csg ≠ 2 ∧ v.nsg ≠ 2 := by
  change (!(v.csg.toNat == 2) && !(v.nsg.toNat == 2)) = true ↔ _
  simp [← BitVec.toNat_inj]

/-- Settles O16: the check of R133 and the domain of R258 both refuse stage 2 in either field. -/
theorem loginReqDecodesAndEncodes : Obligations.LoginReqDecodesAndEncodes := by
  refine fun s hs => ⟨fun b hop hcsg hnsg => ?decode, fun b hop hstage => ?invalid, fun c v hlen hcsg hnsg => ?encode,
    fun c v hout => ?range⟩
  case decode =>
    rw [← readFields_loginReq]
    exact exec_wire_of_passes (t := .loginReq) hs hop ((checkLogin_eq b).trans (if_neg (not_or.mpr ⟨hcsg, hnsg⟩)))
  case invalid => exact exec_wire_of_fails (t := .loginReq) hs hop ((checkLogin_eq b).trans (if_pos hstage))
  case encode =>
    exact exec_typed_of_inDomain (t := .loginReq) hs hlen v.fields_fit ((domainArm_loginReq v).mpr ⟨hcsg, hnsg⟩)
      fun _ => data_loginReq
  case range =>
    rw [or_iff_not_and_not (a := v.csg = 2), ← domainArm_loginReq] at hout
    exact exec_typed_of_outOfDomain (t := .loginReq) hs hout

/-! ### TEXT_REQ -/

theorem textReqFields_injective : Function.Injective TextReqFields.fields := by
  rintro ⟨⟩ ⟨⟩ h
  simpa [TextReqFields.fields, BitVec.toNat_inj, toNat_bool_inj, bytes_data_inj] using h

/-- R136: the fields of a TEXT_REQ header. -/
theorem readFields_textReq (b : Header48) : readFields Layout.textReq b
    = ({ final := flagAt b 7, cont := flagAt b 6, ttt := wordAt b 20, cmdsn := wordAt b 24,
         expStatsn := wordAt b 28 } : TextReqFields).fields := by
  simp only [readFields, Layout.textReq, List.map_cons, read_bit, read_be32]
  rfl

/-- R137: the bytes of a TEXT_REQ header. -/
theorem data_textReq {p : Bool} {c : Common 32} {v : TextReqFields} {z : Header48} (h : IsImage p .textReq c v.fields z) :
    z.data = [firstByte c 0x04] ++ [flag v.final 7 ||| flag v.cont 6] ++ zeros 2 ++ lengths c ++ zeros 8 ++ word c.itt ++
      word v.ttt ++ word v.cmdsn ++ word v.expStatsn ++ zeros 16 := by
  obtain rfl := textReqFields_injective (h.readsAs.symm.trans (readFields_textReq z))
  have hflags : z.read 1 = flag (flagAt z 7) 7 ||| flag (flagAt z 6) 6 := by
    simpa only [BitVec.and_or_distrib_left, and_shiftLeft_one, and_fieldMask_shiftLeft] using
      h.read_one (m := 1 <<< 7 ||| 1 <<< 6) rfl rfl
  rw [h.data_eq, ← hflags]
  simp (disch := decide) only [word_wordAt, h.reserved]
  rfl

/-- Settles O17: TEXT_REQ has no check, and its table reads as R136 says. -/
theorem textReqDecodesAndEncodes : Obligations.TextReqDecodesAndEncodes := fun _ hs =>
  decodesAndEncodes_of_unchecked (t := .textReq) (fun _ => rfl) (fun _ => rfl) TextReqFields.fields_fit readFields_textReq
    (fun _ _ _ _ => data_textReq) hs

/-! ### DATA_OUT -/

theorem dataOutFields_injective : Function.Injective DataOutFields.fields := by
  rintro ⟨⟩ ⟨⟩ h
  simpa [DataOutFields.fields, BitVec.toNat_inj, toNat_bool_inj, bytes_data_inj] using h

/-- R139: the fields of a DATA_OUT header. -/
theorem readFields_dataOut (b : Header48) : readFields Layout.dataOut b
    = ({ final := flagAt b 7, lun := eightAt b 8, ttt := wordAt b 20, expStatsn := wordAt b 28, datasn := wordAt b 36,
         bufferOffset := wordAt b 40 } : DataOutFields).fields := by
  simp only [readFields, Layout.dataOut, List.map_cons, read_bit, read_be32]
  rfl

/-- R140: the bytes of a DATA_OUT header. -/
theorem data_dataOut {p : Bool} {c : Common 32} {v : DataOutFields} {z : Header48} (h : IsImage p .dataOut c v.fields z) :
    z.data = [firstByte c 0x05] ++ [flag v.final 7] ++ zeros 2 ++ lengths c ++ v.lun.data ++ word c.itt ++ word v.ttt ++
      zeros 4 ++ word v.expStatsn ++ zeros 4 ++ word v.datasn ++ word v.bufferOffset ++ zeros 4 := by
  obtain rfl := dataOutFields_injective (h.readsAs.symm.trans (readFields_dataOut z))
  have hflags : z.read 1 = flag (flagAt z 7) 7 := (h.read_one (m := 1 <<< 7) rfl rfl).trans (and_shiftLeft_one _ 7)
  rw [h.data_eq, ← hflags]
  simp (disch := decide) only [word_wordAt, h.reserved]
  rfl

/-- Settles O18: DATA_OUT has no check, and its table reads as R139 says. -/
theorem dataOutDecodesAndEncodes : Obligations.DataOutDecodesAndEncodes := fun _ hs =>
  decodesAndEncodes_of_unchecked (t := .dataOut) (fun _ => rfl) (fun _ => rfl) DataOutFields.fields_fit readFields_dataOut
    (fun _ _ _ _ => data_dataOut) hs

/-! ### LOGOUT_REQ -/

theorem logoutReqFields_injective : Function.Injective LogoutReqFields.fields := by
  rintro ⟨⟩ ⟨⟩ h
  simpa [LogoutReqFields.fields, BitVec.toNat_inj, toNat_bool_inj, bytes_data_inj] using h

/-- R142: the fields of a LOGOUT_REQ header. -/
theorem readFields_logoutReq (b : Header48) : readFields Layout.logoutReq b
    = ({ final := flagAt b 7, reason := flagsAt b 0 7, cid := halfAt b 20, cmdsn := wordAt b 24,
         expStatsn := wordAt b 28 } : LogoutReqFields).fields := by
  simp only [readFields, Layout.logoutReq, List.map_cons, read_bit, read_sub, read_be16, read_be32]
  rfl

/-- R143: the bytes of a LOGOUT_REQ header. -/
theorem data_logoutReq {p : Bool} {c : Common 32} {v : LogoutReqFields} {z : Header48} (h : IsImage p .logoutReq c v.fields z) :
    z.data = [firstByte c 0x06] ++ [flag v.final 7 ||| flags v.reason 0] ++ zeros 2 ++ lengths c ++ zeros 8 ++ word c.itt ++
      half v.cid ++ zeros 2 ++ word v.cmdsn ++ word v.expStatsn ++ zeros 16 := by
  obtain rfl := logoutReqFields_injective (h.readsAs.symm.trans (readFields_logoutReq z))
  have hflags : z.read 1 = flag (flagAt z 7) 7 ||| flags (flagsAt z 0 7) 0 := by
    simpa only [BitVec.and_or_distrib_left, and_shiftLeft_one, and_fieldMask_shiftLeft] using
      h.read_one (m := 1 <<< 7 ||| fieldMask 7 <<< 0) rfl rfl
  rw [h.data_eq, ← hflags]
  simp (disch := decide) only [half_halfAt, word_wordAt, h.reserved]
  rfl

/-- Settles O19: LOGOUT_REQ has no check, and its table reads as R142 says. -/
theorem logoutReqDecodesAndEncodes : Obligations.LogoutReqDecodesAndEncodes := fun _ hs =>
  decodesAndEncodes_of_unchecked (t := .logoutReq) (fun _ => rfl) (fun _ => rfl) LogoutReqFields.fields_fit readFields_logoutReq
    (fun _ _ _ _ => data_logoutReq) hs

/-! ### SNACK -/

theorem snackFields_injective : Function.Injective SnackFields.fields := by
  rintro ⟨⟩ ⟨⟩ h
  simpa [SnackFields.fields, BitVec.toNat_inj, toNat_bool_inj, bytes_data_inj] using h

/-- R145: the fields of a SNACK header. -/
theorem readFields_snack (b : Header48) : readFields Layout.snack b
    = ({ final := flagAt b 7, snackType := flagsAt b 0 4, ttt := wordAt b 20, expStatsn := wordAt b 28,
         begrun := wordAt b 40, runlength := wordAt b 44 } : SnackFields).fields := by
  simp only [readFields, Layout.snack, List.map_cons, read_bit, read_sub, read_be32]
  rfl

/-- R146: the bytes of a SNACK header. -/
theorem data_snack {p : Bool} {c : Common 32} {v : SnackFields} {z : Header48} (h : IsImage p .snack c v.fields z) :
    z.data = [firstByte c 0x10] ++ [flag v.final 7 ||| flags v.snackType 0] ++ zeros 2 ++ lengths c ++ zeros 8 ++ word c.itt ++
      word v.ttt ++ zeros 4 ++ word v.expStatsn ++ zeros 8 ++ word v.begrun ++ word v.runlength := by
  obtain rfl := snackFields_injective (h.readsAs.symm.trans (readFields_snack z))
  have hflags : z.read 1 = flag (flagAt z 7) 7 ||| flags (flagsAt z 0 4) 0 := by
    simpa only [BitVec.and_or_distrib_left, and_shiftLeft_one, and_fieldMask_shiftLeft] using
      h.read_one (m := 1 <<< 7 ||| fieldMask 4 <<< 0) rfl rfl
  rw [h.data_eq, ← hflags]
  simp (disch := decide) only [word_wordAt, h.reserved]
  rfl

/-- Settles O20: SNACK has no check, and its table reads as R145 says. -/
theorem snackDecodesAndEncodes : Obligations.SnackDecodesAndEncodes := fun _ hs =>
  decodesAndEncodes_of_unchecked (t := .snack) (fun _ => rfl) (fun _ => rfl) SnackFields.fields_fit readFields_snack
    (fun _ _ _ _ => data_snack) hs

end Sys2Proof.Machine
end

section
/-!
The variants of the target (42_target_variants.md). What holds of every variant stands with those of the initiator, so that each of
the ten needs only the reading of its table and the order of its bytes; LOGIN_RSP also has the check of LOGIN_REQ (R180).
-/

namespace Sys2Proof.Machine

/-! ### The flags of byte 1 -/

/-- In most responses F is the only bit of byte 1 that holds anything. -/
theorem IsImage.read_one_of_final {p : Bool} {t : Tag} {c : Common 32} {fields : Fields} {z : Header48}
    (h : IsImage p t c fields z) (hm : namedFlags t = 1 <<< 7) (ht : fixedFlags p t = 0) : z.read 1 = flag (flagAt z 7) 7 :=
  (h.read_one hm ht).trans (and_shiftLeft_one _ 7)

/-! ### LOGIN_RSP -/

theorem loginRspFields_injective : Function.Injective LoginRspFields.fields := by
  rintro ⟨⟩ ⟨⟩ h
  simpa [LoginRspFields.fields, BitVec.toNat_inj, toNat_bool_inj, bytes_data_inj] using h

/-- R180: the fields of a LOGIN_RSP header. -/
theorem readFields_loginRsp (b : Header48) : readFields Layout.loginRsp b
    = ({ transit := flagAt b 7, cont := flagAt b 6, csg := flagsAt b 2 2, nsg := flagsAt b 0 2,
         maxVersion := b.read 2, activeVersion := b.read 3, isid := sixAt b 8, tsih := halfAt b 14,
         statsn := wordAt b 24, expCmdsn := wordAt b 28, maxCmdsn := wordAt b 32, statusClass := b.read 36,
         statusDetail := b.read 37 } : LoginRspFields).fields := by
  simp only [readFields, Layout.loginRsp, List.map_cons, read_bit, read_sub, read_u8, read_be16, read_be32]
  rfl

/-- R181: the bytes of a LOGIN_RSP header. -/
theorem data_loginRsp {p : Bool} {c : Common 32} {v : LoginRspFields} {z : Header48} (h : IsImage p .loginRsp c v.fields z) :
    z.data = [firstByte c 0x23] ++ [flag v.transit 7 ||| flag v.cont 6 ||| flags v.csg 2 ||| flags v.nsg 0] ++
      [v.maxVersion] ++ [v.activeVersion] ++ lengths c ++ v.isid.data ++ half v.tsih ++ word c.itt ++ zeros 4 ++
      word v.statsn ++ word v.expCmdsn ++ word v.maxCmdsn ++ [v.statusClass] ++ [v.statusDetail] ++ zeros 10 := by
  obtain rfl := loginRspFields_injective (h.readsAs.symm.trans (readFields_loginRsp z))
  have hflags : z.read 1 =
      flag (flagAt z 7) 7 ||| flag (flagAt z 6) 6 ||| flags (flagsAt z 2 2) 2 ||| flags (flagsAt z 0 2) 0 := by
    simpa only [BitVec.and_or_distrib_left, and_shiftLeft_one, and_fieldMask_shiftLeft] using
      h.read_one (m := 1 <<< 7 ||| 1 <<< 6 ||| fieldMask 2 <<< 2 ||| fieldMask 2 <<< 0) rfl rfl
  rw [h.data_eq, ← hflags]
  simp (disch := decide) only [half_halfAt, word_wordAt, h.reserved]
  rfl

/-- The domain of R258 on the record of a LOGIN_RSP header. -/
theorem domainArm_loginRsp (v : LoginRspFields) :
    domainArm .loginRsp v.fields = true ↔ v.csg ≠ 2 ∧ v.nsg ≠ 2 := by
  change (!(v.csg.toNat == 2) && !(v.nsg.toNat == 2)) = true ↔ _
  simp [← BitVec.toNat_inj]

/-- Settles O24: the check of R180 and the domain of R258 both refuse stage 2 in either field. -/
theorem loginRspDecodesAndEncodes : Obligations.LoginRspDecodesAndEncodes := by
  refine fun s hs => ⟨fun b hop hcsg hnsg => ?decode, fun b hop hstage => ?invalid, fun c v hlen hcsg hnsg => ?encode,
    fun c v hout => ?range⟩
  case decode =>
    rw [← readFields_loginRsp]
    exact exec_wire_of_passes (t := .loginRsp) hs hop ((checkLogin_eq b).trans (if_neg (not_or.mpr ⟨hcsg, hnsg⟩)))
  case invalid => exact exec_wire_of_fails (t := .loginRsp) hs hop ((checkLogin_eq b).trans (if_pos hstage))
  case encode =>
    exact exec_typed_of_inDomain (t := .loginRsp) hs hlen v.fields_fit ((domainArm_loginRsp v).mpr ⟨hcsg, hnsg⟩)
      fun _ => data_loginRsp
  case range =>
    rw [or_iff_not_and_not (a := v.csg = 2), ← domainArm_loginRsp] at hout
    exact exec_typed_of_outOfDomain (t := .loginRsp) hs hout

/-! ### NOP_IN -/

theorem nopInFields_injective : Function.Injective NopInFields.fields := by
  rintro ⟨⟩ ⟨⟩ h
  simpa [NopInFields.fields, BitVec.toNat_inj, toNat_bool_inj, bytes_data_inj] using h

/-- R171: the fields of a NOP_IN header. -/
theorem readFields_nopIn (b : Header48) : readFields Layout.nopIn b
    = ({ final := flagAt b 7, lun := eightAt b 8, ttt := wordAt b 20, statsn := wordAt b 24, expCmdsn := wordAt b 28,
         maxCmdsn := wordAt b 32 } : NopInFields).fields := by
  simp only [readFields, Layout.nopIn, List.map_cons, read_bit, read_be32]
  rfl

/-- R172: the bytes of a NOP_IN header. -/
theorem data_nopIn {p : Bool} {c : Common 32} {v : NopInFields} {z : Header48} (h : IsImage p .nopIn c v.fields z) :
    z.data = [firstByte c 0x20] ++ [flag v.final 7] ++ zeros 2 ++ lengths c ++ v.lun.data ++ word c.itt ++ word v.ttt ++
      word v.statsn ++ word v.expCmdsn ++ word v.maxCmdsn ++ zeros 12 := by
  obtain rfl := nopInFields_injective (h.readsAs.symm.trans (readFields_nopIn z))
  rw [h.data_eq, h.read_one_of_final rfl rfl]
  simp (disch := decide) only [word_wordAt, h.reserved]
  rfl

/-- Settles O21: NOP_IN has no check, and its table reads as R171 says. -/
theorem nopInDecodesAndEncodes : Obligations.NopInDecodesAndEncodes := fun _ hs =>
  decodesAndEncodes_of_unchecked (t := .nopIn) (fun _ => rfl) (fun _ => rfl) NopInFields.fields_fit readFields_nopIn
    (fun _ _ _ _ => data_nopIn) hs

/-! ### SCSI_RSP -/

theorem scsiRspFields_injective : Function.Injective ScsiRspFields.fields := by
  rintro ⟨⟩ ⟨⟩ h
  simpa [ScsiRspFields.fields, BitVec.toNat_inj, toNat_bool_inj] using h

/-- R174: the fields of a SCSI_RSP header. -/
theorem readFields_scsiRsp (b : Header48) : readFields Layout.scsiRsp b
    = ({ final := flagAt b 7, bidiOverflow := flagAt b 4, bidiUnderflow := flagAt b 3, overflow := flagAt b 2,
         underflow := flagAt b 1, response := b.read 2, cmdStatus := b.read 3, snackTag := wordAt b 20,
         statsn := wordAt b 24, expCmdsn := wordAt b 28, maxCmdsn := wordAt b 32, expDatasn := wordAt b 36,
         biResidualCount := wordAt b 40, residualCount := wordAt b 44 } : ScsiRspFields).fields := by
  simp only [readFields, Layout.scsiRsp, List.map_cons, read_bit, read_u8, read_be32]
  rfl

/-- R175: the bytes of a SCSI_RSP header. -/
theorem data_scsiRsp {p : Bool} {c : Common 32} {v : ScsiRspFields} {z : Header48} (h : IsImage p .scsiRsp c v.fields z) :
    z.data = [firstByte c 0x21] ++
      [flag v.final 7 ||| flag v.bidiOverflow 4 ||| flag v.bidiUnderflow 3 ||| flag v.overflow 2 ||| flag v.underflow 1] ++
      [v.response] ++ [v.cmdStatus] ++ lengths c ++ zeros 8 ++ word c.itt ++ word v.snackTag ++ word v.statsn ++
      word v.expCmdsn ++ word v.maxCmdsn ++ word v.expDatasn ++ word v.biResidualCount ++ word v.residualCount := by
  obtain rfl := scsiRspFields_injective (h.readsAs.symm.trans (readFields_scsiRsp z))
  have hflags : z.read 1 = flag (flagAt z 7) 7 ||| flag (flagAt z 4) 4 ||| flag (flagAt z 3) 3 ||| flag (flagAt z 2) 2 |||
      flag (flagAt z 1) 1 := by
    simpa only [BitVec.and_or_distrib_left, and_shiftLeft_one] using
      h.read_one (m := 1 <<< 7 ||| 1 <<< 4 ||| 1 <<< 3 ||| 1 <<< 2 ||| 1 <<< 1) rfl rfl
  rw [h.data_eq, ← hflags]
  simp (disch := decide) only [word_wordAt, h.reserved]
  rfl

/-- Settles O22: SCSI_RSP has no check, and its table reads as R174 says. -/
theorem scsiRspDecodesAndEncodes : Obligations.ScsiRspDecodesAndEncodes := fun _ hs =>
  decodesAndEncodes_of_unchecked (t := .scsiRsp) (fun _ => rfl) (fun _ => rfl) ScsiRspFields.fields_fit readFields_scsiRsp
    (fun _ _ _ _ => data_scsiRsp) hs

/-! ### TMF_RSP -/

theorem tmfRspFields_injective : Function.Injective TmfRspFields.fields := by
  rintro ⟨⟩ ⟨⟩ h
  simpa [TmfRspFields.fields, BitVec.toNat_inj, toNat_bool_inj] using h

/-- R177: the fields of a TMF_RSP header. -/
theorem readFields_tmfRsp (b : Header48) : readFields Layout.tmfRsp b
    = ({ final := flagAt b 7, response := b.read 2, statsn := wordAt b 24, expCmdsn := wordAt b 28,
         maxCmdsn := wordAt b 32 } : TmfRspFields).fields := by
  simp only [readFields, Layout.tmfRsp, List.map_cons, read_bit, read_u8, read_be32]
  rfl

/-- R178: the bytes of a TMF_RSP header. -/
theorem data_tmfRsp {p : Bool} {c : Common 32} {v : TmfRspFields} {z : Header48} (h : IsImage p .tmfRsp c v.fields z) :
    z.data = [firstByte c 0x22] ++ [flag v.final 7] ++ [v.response] ++ zeros 1 ++ lengths c ++ zeros 8 ++ word c.itt ++
      zeros 4 ++ word v.statsn ++ word v.expCmdsn ++ word v.maxCmdsn ++ zeros 12 := by
  obtain rfl := tmfRspFields_injective (h.readsAs.symm.trans (readFields_tmfRsp z))
  rw [h.data_eq, h.read_one_of_final rfl rfl]
  simp (disch := decide) only [word_wordAt, h.reserved]
  rfl

/-- Settles O23: TMF_RSP has no check, and its table reads as R177 says. -/
theorem tmfRspDecodesAndEncodes : Obligations.TmfRspDecodesAndEncodes := fun _ hs =>
  decodesAndEncodes_of_unchecked (t := .tmfRsp) (fun _ => rfl) (fun _ => rfl) TmfRspFields.fields_fit readFields_tmfRsp
    (fun _ _ _ _ => data_tmfRsp) hs

/-! ### TEXT_RSP -/

theorem textRspFields_injective : Function.Injective TextRspFields.fields := by
  rintro ⟨⟩ ⟨⟩ h
  simpa [TextRspFields.fields, BitVec.toNat_inj, toNat_bool_inj] using h

/-- R183: the fields of a TEXT_RSP header. -/
theorem readFields_textRsp (b : Header48) : readFields Layout.textRsp b
    = ({ final := flagAt b 7, cont := flagAt b 6, ttt := wordAt b 20, statsn := wordAt b 24, expCmdsn := wordAt b 28,
         maxCmdsn := wordAt b 32 } : TextRspFields).fields := by
  simp only [readFields, Layout.textRsp, List.map_cons, read_bit, read_be32]
  rfl

/-- R184: the bytes of a TEXT_RSP header. -/
theorem data_textRsp {p : Bool} {c : Common 32} {v : TextRspFields} {z : Header48} (h : IsImage p .textRsp c v.fields z) :
    z.data = [firstByte c 0x24] ++ [flag v.final 7 ||| flag v.cont 6] ++ zeros 2 ++ lengths c ++ zeros 8 ++ word c.itt ++
      word v.ttt ++ word v.statsn ++ word v.expCmdsn ++ word v.maxCmdsn ++ zeros 12 := by
  obtain rfl := textRspFields_injective (h.readsAs.symm.trans (readFields_textRsp z))
  have hflags : z.read 1 = flag (flagAt z 7) 7 ||| flag (flagAt z 6) 6 := by
    simpa only [BitVec.and_or_distrib_left, and_shiftLeft_one] using h.read_one (m := 1 <<< 7 ||| 1 <<< 6) rfl rfl
  rw [h.data_eq, ← hflags]
  simp (disch := decide) only [word_wordAt, h.reserved]
  rfl

/-- Settles O25: TEXT_RSP has no check, and its table reads as R183 says. -/
theorem textRspDecodesAndEncodes : Obligations.TextRspDecodesAndEncodes := fun _ hs =>
  decodesAndEncodes_of_unchecked (t := .textRsp) (fun _ => rfl) (fun _ => rfl) TextRspFields.fields_fit readFields_textRsp
    (fun _ _ _ _ => data_textRsp) hs

/-! ### DATA_IN -/

theorem dataInFields_injective : Function.Injective DataInFields.fields := by
  rintro ⟨⟩ ⟨⟩ h
  simpa [DataInFields.fields, BitVec.toNat_inj, toNat_bool_inj, bytes_data_inj] using h

/-- R186: the fields of a DATA_IN header. -/
theorem readFields_dataIn (b : Header48) : readFields Layout.dataIn b
    = ({ final := flagAt b 7, ack := flagAt b 6, overflow := flagAt b 2, underflow := flagAt b 1,
         statusPresent := flagAt b 0, cmdStatus := b.read 3, lun := eightAt b 8, ttt := wordAt b 20, statsn := wordAt b 24,
         expCmdsn := wordAt b 28, maxCmdsn := wordAt b 32, datasn := wordAt b 36, bufferOffset := wordAt b 40,
         residualCount := wordAt b 44 } : DataInFields).fields := by
  simp only [readFields, Layout.dataIn, List.map_cons, read_bit, read_u8, read_be32]
  rfl

/-- R187: the bytes of a DATA_IN header. -/
theorem data_dataIn {p : Bool} {c : Common 32} {v : DataInFields} {z : Header48} (h : IsImage p .dataIn c v.fields z) :
    z.data = [firstByte c 0x25] ++
      [flag v.final 7 ||| flag v.ack 6 ||| flag v.overflow 2 ||| flag v.underflow 1 ||| flag v.statusPresent 0] ++
      zeros 1 ++ [v.cmdStatus] ++ lengths c ++ v.lun.data ++ word c.itt ++ word v.ttt ++ word v.statsn ++ word v.expCmdsn ++
      word v.maxCmdsn ++ word v.datasn ++ word v.bufferOffset ++ word v.residualCount := by
  obtain rfl := dataInFields_injective (h.readsAs.symm.trans (readFields_dataIn z))
  have hflags : z.read 1 = flag (flagAt z 7) 7 ||| flag (flagAt z 6) 6 ||| flag (flagAt z 2) 2 ||| flag (flagAt z 1) 1 |||
      flag (flagAt z 0) 0 := by
    simpa only [BitVec.and_or_distrib_left, and_shiftLeft_one] using
      h.read_one (m := 1 <<< 7 ||| 1 <<< 6 ||| 1 <<< 2 ||| 1 <<< 1 ||| 1 <<< 0) rfl rfl
  rw [h.data_eq, ← hflags]
  simp (disch := decide) only [word_wordAt, h.reserved]
  rfl

/-- Settles O26: DATA_IN has no check, and its table reads as R186 says. -/
theorem dataInDecodesAndEncodes : Obligations.DataInDecodesAndEncodes := fun _ hs =>
  decodesAndEncodes_of_unchecked (t := .dataIn) (fun _ => rfl) (fun _ => rfl) DataInFields.fields_fit readFields_dataIn
    (fun _ _ _ _ => data_dataIn) hs

/-! ### LOGOUT_RSP -/

theorem logoutRspFields_injective : Function.Injective LogoutRspFields.fields := by
  rintro ⟨⟩ ⟨⟩ h
  simpa [LogoutRspFields.fields, BitVec.toNat_inj, toNat_bool_inj] using h

/-- R189: the fields of a LOGOUT_RSP header. -/
theorem readFields_logoutRsp (b : Header48) : readFields Layout.logoutRsp b
    = ({ final := flagAt b 7, response := b.read 2, statsn := wordAt b 24, expCmdsn := wordAt b 28,
         maxCmdsn := wordAt b 32, time2wait := halfAt b 40, time2retain := halfAt b 42 } : LogoutRspFields).fields := by
  simp only [readFields, Layout.logoutRsp, List.map_cons, read_bit, read_u8, read_be16, read_be32]
  rfl

/-- R190: the bytes of a LOGOUT_RSP header. -/
theorem data_logoutRsp {p : Bool} {c : Common 32} {v : LogoutRspFields} {z : Header48} (h : IsImage p .logoutRsp c v.fields z) :
    z.data = [firstByte c 0x26] ++ [flag v.final 7] ++ [v.response] ++ zeros 1 ++ lengths c ++ zeros 8 ++ word c.itt ++
      zeros 4 ++ word v.statsn ++ word v.expCmdsn ++ word v.maxCmdsn ++ zeros 4 ++ half v.time2wait ++ half v.time2retain ++
      zeros 4 := by
  obtain rfl := logoutRspFields_injective (h.readsAs.symm.trans (readFields_logoutRsp z))
  rw [h.data_eq, h.read_one_of_final rfl rfl]
  simp (disch := decide) only [half_halfAt, word_wordAt, h.reserved]
  rfl

/-- Settles O27: LOGOUT_RSP has no check, and its table reads as R189 says. -/
theorem logoutRspDecodesAndEncodes : Obligations.LogoutRspDecodesAndEncodes := fun _ hs =>
  decodesAndEncodes_of_unchecked (t := .logoutRsp) (fun _ => rfl) (fun _ => rfl) LogoutRspFields.fields_fit readFields_logoutRsp
    (fun _ _ _ _ => data_logoutRsp) hs

/-! ### R2T -/

theorem r2tFields_injective : Function.Injective R2tFields.fields := by
  rintro ⟨⟩ ⟨⟩ h
  simpa [R2tFields.fields, BitVec.toNat_inj, toNat_bool_inj, bytes_data_inj] using h

/-- R192: the fields of an R2T header. -/
theorem readFields_r2t (b : Header48) : readFields Layout.r2t b
    = ({ final := flagAt b 7, lun := eightAt b 8, ttt := wordAt b 20, statsn := wordAt b 24, expCmdsn := wordAt b 28,
         maxCmdsn := wordAt b 32, rttsn := wordAt b 36, dataOffset := wordAt b 40,
         desiredLength := wordAt b 44 } : R2tFields).fields := by
  simp only [readFields, Layout.r2t, List.map_cons, read_bit, read_be32]
  rfl

/-- R193: the bytes of an R2T header. -/
theorem data_r2t {p : Bool} {c : Common 32} {v : R2tFields} {z : Header48} (h : IsImage p .r2t c v.fields z) :
    z.data = [firstByte c 0x31] ++ [flag v.final 7] ++ zeros 2 ++ lengths c ++ v.lun.data ++ word c.itt ++ word v.ttt ++
      word v.statsn ++ word v.expCmdsn ++ word v.maxCmdsn ++ word v.rttsn ++ word v.dataOffset ++ word v.desiredLength := by
  obtain rfl := r2tFields_injective (h.readsAs.symm.trans (readFields_r2t z))
  rw [h.data_eq, h.read_one_of_final rfl rfl]
  simp (disch := decide) only [word_wordAt, h.reserved]
  rfl

/-- Settles O28: R2T has no check, and its table reads as R192 says. -/
theorem r2tDecodesAndEncodes : Obligations.R2tDecodesAndEncodes := fun _ hs =>
  decodesAndEncodes_of_unchecked (t := .r2t) (fun _ => rfl) (fun _ => rfl) R2tFields.fields_fit readFields_r2t
    (fun _ _ _ _ => data_r2t) hs

/-! ### ASYNC -/

theorem asyncFields_injective : Function.Injective AsyncFields.fields := by
  rintro ⟨⟩ ⟨⟩ h
  simpa [AsyncFields.fields, BitVec.toNat_inj, toNat_bool_inj, bytes_data_inj] using h

/-- R195: the fields of an ASYNC header. -/
theorem readFields_async (b : Header48) : readFields Layout.async b
    = ({ final := flagAt b 7, lun := eightAt b 8, statsn := wordAt b 24, expCmdsn := wordAt b 28, maxCmdsn := wordAt b 32,
         asyncEvent := b.read 36, asyncVcode := b.read 37, param1 := halfAt b 38, param2 := halfAt b 40,
         param3 := halfAt b 42 } : AsyncFields).fields := by
  simp only [readFields, Layout.async, List.map_cons, read_bit, read_u8, read_be16, read_be32]
  rfl

/-- R196: the bytes of an ASYNC header. -/
theorem data_async {p : Bool} {c : Common 32} {v : AsyncFields} {z : Header48} (h : IsImage p .async c v.fields z) :
    z.data = [firstByte c 0x32] ++ [flag v.final 7] ++ zeros 2 ++ lengths c ++ v.lun.data ++ word c.itt ++ zeros 4 ++
      word v.statsn ++ word v.expCmdsn ++ word v.maxCmdsn ++ [v.asyncEvent] ++ [v.asyncVcode] ++ half v.param1 ++
      half v.param2 ++ half v.param3 ++ zeros 4 := by
  obtain rfl := asyncFields_injective (h.readsAs.symm.trans (readFields_async z))
  rw [h.data_eq, h.read_one_of_final rfl rfl]
  simp (disch := decide) only [half_halfAt, word_wordAt, h.reserved]
  rfl

/-- Settles O29: ASYNC has no check, and its table reads as R195 says. -/
theorem asyncDecodesAndEncodes : Obligations.AsyncDecodesAndEncodes := fun _ hs =>
  decodesAndEncodes_of_unchecked (t := .async) (fun _ => rfl) (fun _ => rfl) AsyncFields.fields_fit readFields_async
    (fun _ _ _ _ => data_async) hs

/-! ### REJECT -/

theorem rejectFields_injective : Function.Injective RejectFields.fields := by
  rintro ⟨⟩ ⟨⟩ h
  simpa [RejectFields.fields, BitVec.toNat_inj, toNat_bool_inj] using h

/-- R198: the fields of a REJECT header. -/
theorem readFields_reject (b : Header48) : readFields Layout.reject b
    = ({ final := flagAt b 7, reason := b.read 2, statsn := wordAt b 24, expCmdsn := wordAt b 28, maxCmdsn := wordAt b 32,
         datasn := wordAt b 36 } : RejectFields).fields := by
  simp only [readFields, Layout.reject, List.map_cons, read_bit, read_u8, read_be32]
  rfl

/-- R199: the bytes of a REJECT header. -/
theorem data_reject {p : Bool} {c : Common 32} {v : RejectFields} {z : Header48} (h : IsImage p .reject c v.fields z) :
    z.data = [firstByte c 0x3F] ++ [flag v.final 7] ++ [v.reason] ++ zeros 1 ++ lengths c ++ zeros 8 ++ word c.itt ++
      zeros 4 ++ word v.statsn ++ word v.expCmdsn ++ word v.maxCmdsn ++ word v.datasn ++ zeros 8 := by
  obtain rfl := rejectFields_injective (h.readsAs.symm.trans (readFields_reject z))
  rw [h.data_eq, h.read_one_of_final rfl rfl]
  simp (disch := decide) only [word_wordAt, h.reserved]
  rfl

/-- Settles O30: REJECT has no check, and its table reads as R198 says. -/
theorem rejectDecodesAndEncodes : Obligations.RejectDecodesAndEncodes := fun _ hs =>
  decodesAndEncodes_of_unchecked (t := .reject) (fun _ => rfl) (fun _ => rfl) RejectFields.fields_fit readFields_reject
    (fun _ _ _ _ => data_reject) hs

end Sys2Proof.Machine
end

section
/-!
The opcode registry (43_registry.md): the contents of R231 by address, and what LOOKUP answers from them (R233).
-/

namespace Sys2Proof.Machine

/-! ### The contents of the registry -/

theorem ofCode_eq_none_iff_forall_ne (op : BitVec 6) : Tag.ofCode op = none ↔ ∀ t : Tag, op ≠ t.code := by
  simp only [Option.eq_none_iff_forall_ne_some, ne_eq, Tag.ofCode_eq_some]

/-- The addresses without a variant are the four gaps of the table of R231. -/
theorem ofCode_eq_none_iff_gap (op : BitVec 6) : Tag.ofCode op = none ↔
    (0x07 ≤ op ∧ op ≤ 0x0F) ∨ (0x11 ≤ op ∧ op ≤ 0x1F) ∨ (0x27 ≤ op ∧ op ≤ 0x30) ∨ (0x33 ≤ op ∧ op ≤ 0x3E) := by
  refine ⟨?_, ofCode_eq_none_of_gap op⟩
  revert op
  decide

theorem direction_eq_initiatorToTarget_iff (t : Tag) : t.direction = .initiatorToTarget ↔ t.code < 0x20 := by
  cases t <;> decide

theorem entry_contents_of_ofCode_eq_none {op : BitVec 6} (h : Tag.ofCode op = none) :
    Registry.contents.entry op = ⟨false, 0, .initiatorToTarget⟩ := by
  rw [Registry.entry_contents, h]

/-- The addresses of R231 that hold a valid entry are the opcodes of the tags. -/
theorem valid_contents_iff_exists_code (op : BitVec 6) :
    (Registry.contents.entry op).valid = true ↔ ∃ t : Tag, op = t.code := by
  simp only [Registry.valid_contents_iff, Tag.ofCode_eq_some]

theorem valid_contents_iff_not_gap (op : BitVec 6) : (Registry.contents.entry op).valid = true ↔
    ¬ ((0x07 ≤ op ∧ op ≤ 0x0F) ∨ (0x11 ≤ op ∧ op ≤ 0x1F) ∨ (0x27 ≤ op ∧ op ≤ 0x30) ∨ (0x33 ≤ op ∧ op ≤ 0x3E)) := by
  rw [Registry.valid_contents_iff, ← ofCode_eq_none_iff_gap, ← ne_eq, Option.ne_none_iff_exists']

/-- The valid entries of R231 are one for each tag, in the order of their addresses. -/
theorem filter_valid_contents :
    Registry.contents.entries.filter (·.valid) = Tag.all.map fun t => ⟨true, t.code, t.direction⟩ := by decide

/-- Settles O8: a valid entry is that of a tag, and an address without a tag holds the entry of R230. -/
theorem registryMatchesTable : Obligations.RegistryMatchesTable := by
  intro op
  rw [State.reset_reg]
  refine ⟨valid_contents_iff_not_gap op, fun hvalid => ?valid, fun hvalid => ?notValid⟩
  case valid =>
    obtain ⟨t, rfl⟩ := (valid_contents_iff_exists_code op).mp hvalid
    rw [Registry.entry_contents_code]
    exact ⟨rfl, direction_eq_initiatorToTarget_iff t⟩
  case notValid =>
    rw [entry_contents_of_ofCode_eq_none (ofCode_eq_none_of_not_valid hvalid)]
    exact ⟨rfl, rfl⟩

/-- Settles O9: the valid entries are those of the 18 tags, and the direction of a tag is bit 5 of its opcode. -/
theorem registryCountAndDirectionBit : Obligations.RegistryCountAndDirectionBit := by
  refine ⟨Registry.size _, ?count, fun op hvalid => ?direction⟩
  case count =>
    rw [State.reset_reg, filter_valid_contents, List.length_map]
    rfl
  case direction =>
    rw [State.reset_reg] at hvalid ⊢
    obtain ⟨t, rfl⟩ := (valid_contents_iff_exists_code op).mp hvalid
    rw [Registry.entry_contents_code]
    exact bit_direction_tag t

/-! ### LOOKUP -/

section Served

variable {s : State} (hport : s.active < s.ports.length)
include hport

theorem exec_lookup_of_valid {op : BitVec 6} (h : (s.reg.entry op).valid = true) :
    exec (.lookup op) s = .next (s.withResponse (.ofEntry (s.reg.entry op))) := by
  rw [exec, execLookup, if_neg (by simp [h]), deliver_of_lt hport]

theorem exec_lookup_of_not_valid {op : BitVec 6} (h : (s.reg.entry op).valid = false) :
    exec (.lookup op) s = .next (s.withResponse (.error (.unknownOpcode op))) := by
  rw [exec, execLookup, if_pos h, deliver_of_lt hport]

end Served

/-- Settles O7: the opcode of a tag has the tag's entry in R231, and any other address has no valid entry. -/
theorem lookupAnswersEntryOrUnknownOpcode : Obligations.LookupAnswersEntryOrUnknownOpcode := by
  intro s hreg hport
  refine ⟨fun t => ?registered, fun op hop => ?reserved⟩
  case registered =>
    have hentry : s.reg.entry t.code = ⟨true, t.code, t.direction⟩ := by rw [hreg, Registry.entry_contents_code]
    rw [exec_lookup_of_valid hport (by rw [hentry]), hentry]
  case reserved =>
    apply exec_lookup_of_not_valid hport
    rw [hreg, entry_contents_of_ofCode_eq_none ((ofCode_eq_none_iff_forall_ne op).mpr hop)]

end Sys2Proof.Machine
end

section
/-!
The PDU codec (44_pdu_codec.md): the status of a DECODE (R250, R297), its header (R253 to R256), the domain of an ENCODE and its
bytes (R257 to R260), the multiplexer (R254), the round trips (R262, R263), and the control bits (R265).

The round trips rest on two facts about a legal table. What ENCODE writes is read back by DECODE, and what DECODE reads determines
every named position of the buffer.
-/

namespace Sys2Proof.Machine

/-! ### What DECODE and ENCODE answer -/

section Served

variable {s : State} (hport : s.active < s.ports.length)
include hport

theorem exec_decode (len : Nat) (b : Header48) :
    exec (.decode len b) s = .next (s.withResponse (decodeResponse s len b)) :=
  deliver_of_lt hport

theorem exec_encode (h : Header 32) : exec (.encode h) s = .next (s.withResponse (encodeResponse s h)) :=
  deliver_of_lt hport

theorem next_withResponse_inj {r r' : Response} :
    (.next (s.withResponse r) : Result) = .next (s.withResponse r') ↔ r = r' :=
  ⟨fun h => withResponse_inj hport (Host.Outcome.next.inj h), fun h => h ▸ rfl⟩

end Served

theorem decodeResponse_of_short (s : State) {len : Nat} (b : Header48) (h : len < 48) :
    decodeResponse s len b = .error (.tooShort len) :=
  if_pos h

/-- Settles O11: the length is the first thing DECODE looks at. -/
theorem shortBufferIsTooShort : Obligations.ShortBufferIsTooShort := by
  intro s len b hport hlen
  rw [exec_decode hport, decodeResponse_of_short s b hlen]

/-- The header that DECODE reads from a buffer with the arm of tag `t` (R253, R72). -/
def State.headerAt (s : State) (t : Tag) (b : Header48) : Header 24 :=
  ⟨readCommon b, t.code, readFields (s.rows t) b⟩

/-- The buffer that ENCODE writes with the arm of tag `t` (R257, R73). -/
def State.imageOf (s : State) (t : Tag) (c : Common 32) (fields : Fields) : Header48 :=
  writeFields (s.rows t) fields (writeCommon s.params.tmfBit7 t c)

section SpecRegistry

variable {s : State} (hreg : s.reg = Registry.contents) {t : Tag} {len : Nat} {b : Header48}
include hreg

theorem decodeArm_of_passes (hop : opcodeOf b = t.code) (hcheck : checkArm t b = none) :
    decodeArm s t b = .ofHeader (s.headerAt t b) := by
  simp [decodeArm, hreg, hop, hcheck, State.headerAt]

theorem decodeArm_of_fails {st : Status} (hop : opcodeOf b = t.code) (hcheck : checkArm t b = some st) :
    decodeArm s t b = .error st := by
  simp [decodeArm, hreg, hop, hcheck]

theorem decodeResponse_of_passes (hlen : 48 ≤ len) (hop : opcodeOf b = t.code) (hcheck : checkArm t b = none) :
    decodeResponse s len b = .ofHeader (s.headerAt t b) := by
  rw [decodeResponse_of_registered hreg len hop, if_neg hlen.not_gt, decodeArm_of_passes hreg hop hcheck]

theorem decodeResponse_of_fails {st : Status} (hlen : 48 ≤ len) (hop : opcodeOf b = t.code)
    (hcheck : checkArm t b = some st) : decodeResponse s len b = .error st := by
  rw [decodeResponse_of_registered hreg len hop, if_neg hlen.not_gt, decodeArm_of_fails hreg hop hcheck]

/-- The four ways a DECODE ends, in the order of its steps (R250). -/
theorem decodeResponse_cases (len : Nat) (b : Header48) :
    (len < 48 ∧ decodeResponse s len b = .error (.tooShort len))
    ∨ (48 ≤ len ∧ Tag.ofCode (opcodeOf b) = none ∧ decodeResponse s len b = .error (.unknownOpcode (opcodeOf b)))
    ∨ (48 ≤ len ∧ ∃ t, opcodeOf b = t.code ∧ ∃ st, checkArm t b = some st ∧ decodeResponse s len b = .error st)
    ∨ (48 ≤ len ∧ ∃ t, opcodeOf b = t.code ∧ checkArm t b = none
        ∧ decodeResponse s len b = .ofHeader (s.headerAt t b)) := by
  rcases Nat.lt_or_ge len 48 with hlen | hlen
  · exact .inl ⟨hlen, decodeResponse_of_short s b hlen⟩
  cases hop : Tag.ofCode (opcodeOf b) with
  | none => exact .inr (.inl ⟨hlen, rfl, decodeResponse_of_reserved hreg hlen hop⟩)
  | some t =>
    rw [Tag.ofCode_eq_some] at hop
    cases hcheck : checkArm t b with
    | some st => exact .inr (.inr (.inl ⟨hlen, t, hop, st, hcheck, decodeResponse_of_fails hreg hlen hop hcheck⟩))
    | none => exact .inr (.inr (.inr ⟨hlen, t, hop, hcheck, decodeResponse_of_passes hreg hlen hop hcheck⟩))

/-- A header is answered only where the length, the opcode and the check of its tag all pass (R250). -/
theorem decodeResponse_eq_ofHeader {h : Header 24} (hr : decodeResponse s len b = .ofHeader h) :
    48 ≤ len ∧ ∃ t, opcodeOf b = t.code ∧ checkArm t b = none ∧ h = s.headerAt t b := by
  rcases decodeResponse_cases hreg len b with
    ⟨-, hr'⟩ | ⟨-, -, hr'⟩ | ⟨-, t, -, st, -, hr'⟩ | ⟨hlen, t, hop, hcheck, hr'⟩ <;>
    have hheader := congrArg Response.hdrOut (hr.symm.trans hr') <;>
    simp only [Response.ofHeader_hdrOut, Response.error_hdrOut, reduceCtorEq, Option.some.injEq] at hheader
  exact ⟨hlen, t, hop, hcheck, hheader⟩

end SpecRegistry

/-! ### The checks of DECODE (R255) -/

theorem toNat_flagsAt (b : Header48) (lo w : Nat) : (flagsAt b lo w).toNat = (b.read 1).toNat / 2 ^ lo % 2 ^ w := by
  rw [BitVec.extractLsb'_toNat, Nat.shiftRight_eq_div_pow]

theorem flagsAt_zero (b : Header48) (w : Nat) : flagsAt b 0 w = BitVec.ofNat w (b.read 1).toNat := by
  apply BitVec.eq_of_toNat_eq
  rw [toNat_flagsAt, BitVec.toNat_ofNat, Nat.pow_zero, Nat.div_one]

theorem flagsAt_eq_two_iff (b : Header48) (lo : Nat) : flagsAt b lo 2 = 2 ↔ (b.read 1).toNat / 2 ^ lo % 4 = 2 := by
  rw [← BitVec.toNat_inj, toNat_flagsAt]
  rfl

/-- The check arms of DECODE give the statuses that R255 lists by byte 1. -/
theorem checkStatus_eq_getD_checkArm (t : Tag) (b : Header48) : checkStatus t (b.read 1) = (checkArm t b).getD .ok := by
  cases t
  case scsiCmd =>
    rw [checkArm_scsiCmd, flagsAt_zero, BitVec.toNat_ofNat, apply_ite (Option.getD · Status.ok)]
    rfl
  case tmfReq =>
    simp only [checkArm_tmfReq, flagsAt_zero, BitVec.toNat_ofNat, Nat.lt_one_iff]
    rw [apply_ite (Option.getD · Status.ok)]
    rfl
  case loginReq | loginRsp =>
    simp only [checkArm, checkLogin_eq, flagsAt_eq_two_iff, Nat.pow_zero, Nat.div_one]
    rw [apply_ite (Option.getD · Status.ok)]
    rfl
  all_goals rfl

theorem checkArm_eq_none_iff_checkStatus (t : Tag) (b : Header48) :
    checkArm t b = none ↔ checkStatus t (b.read 1) = .ok := by
  rw [checkStatus_eq_getD_checkArm]
  cases hcheck : checkArm t b with
  | none => simp
  | some st => simpa using (checkArm_eq_some hcheck).1

/-- Settles O31: one status for each way a DECODE can end. -/
theorem decodeStatusFollowsStepOrder : Obligations.DecodeStatusFollowsStepOrder := by
  intro s len b hreg hport
  refine ⟨_, exec_decode hport len b, ?_⟩
  rw [← opcodeOf_eq_extractLsb']
  rcases decodeResponse_cases hreg len b with
    ⟨hlen, hr⟩ | ⟨hlen, hop, hr⟩ | ⟨hlen, t, hop, st, hcheck, hr⟩ | ⟨hlen, t, hop, hcheck, hr⟩ <;> rw [hr]
  · rw [if_pos hlen]
    rfl
  · rw [if_neg hlen.not_gt, hop]
    rfl
  all_goals
    rw [if_neg hlen.not_gt, hop, Tag.ofCode_code]
    simp [checkStatus_eq_getD_checkArm, hcheck]

/-- Settles O32: every step passes, and the header is the one that the rows of `t` read. -/
theorem decodeAnswersHeaderAndResidual : Obligations.DecodeAnswersHeaderAndResidual := by
  intro s len b t hreg hport hlen hop hstatus
  rw [← opcodeOf_eq_extractLsb'] at hop
  rw [exec_decode hport,
    decodeResponse_of_passes hreg hlen hop ((checkArm_eq_none_iff_checkStatus t b).mpr hstatus), State.headerAt,
    readCommon_eq_commonAt]
  rfl

/-! ### The multiplexer (R254) -/

theorem pduOfTyped_ne_decode (t : Tag) (c : Common 32) (fields : Fields) (len : Nat) (b : Header48) :
    pduOfTyped t c fields ≠ .decode len b := by
  cases t <;> exact nofun

theorem pduOfTyped_ne_encode (t : Tag) (c : Common 32) (fields : Fields) (h : Header 32) :
    pduOfTyped t c fields ≠ .encode h := by
  cases t <;> exact nofun

theorem encodeResponse_of_registered (s : State) {h : Header 32} {t : Tag} (ht : h.tag = t.code) :
    encodeResponse s h = encodeArm s t h.common h.fields := by
  rw [encodeResponse, ht, Tag.ofCode_code]

/-- Settles O35: a registered opcode or tag selects the arm that its PDU row runs. -/
theorem multiplexerSelectsOneArm : Obligations.MultiplexerSelectsOneArm := by
  refine fun s hreg => ⟨fun t len b hlen hop => ?decode, fun h t ht => ?encode⟩
  case decode =>
    rw [← opcodeOf_eq_extractLsb'] at hop
    rw [exec_pduOfWire, exec, execDecode, decodeResponse_of_registered hreg len hop, if_neg hlen.not_gt]
  case encode =>
    rw [pduOfHeader_of_registered ht]
    refine ⟨rfl, pduOfTyped_ne_decode t _ _, pduOfTyped_ne_encode t _ _, ?_⟩
    rw [exec_pduOfTyped, exec, execEncode, encodeResponse_of_registered s ht]

/-! ### The domain of ENCODE (R258) -/

theorem numPasses_iff (fields : Fields) (f : Field) (check : Nat → Bool) :
    numPasses fields f check = true ↔ ∀ v, numOf fields f = some v → check v = true := by
  rw [numPasses]
  cases numOf fields f <;> simp

/-- ENCODE's domain checks are those that R258 lists. -/
theorem domainArm_iff_fieldsInDomain (t : Tag) (fields : Fields) :
    domainArm t fields = true ↔ fieldsInDomain t fields := by
  cases t
  case scsiCmd => simp [domainArm, scsiCmdInDomain, numPasses_iff]
  case tmfReq => simp [domainArm, tmfReqInDomain, numPasses_iff, fieldsInDomain, Nat.one_le_iff_ne_zero]
  case loginReq | loginRsp => simp [domainArm, loginInDomain, numPasses_iff, fieldsInDomain, or_imp, forall_and]
  all_goals exact ⟨fun _ => trivial, fun _ => rfl⟩

theorem encodeArm_of_inDomain {s : State} (hreg : s.reg = Registry.contents) {t : Tag} {c : Common 32} {fields : Fields}
    (hlen : c.dataLength.toNat ≤ 0xFFFFFF) (hvariant : variantOf s.params.layout t fields) :
    encodeArm s t c fields = .ofBytes (s.imageOf t c fields).data := by
  obtain ⟨hfit, hdom⟩ := hvariant
  rw [← domainArm_iff_fieldsInDomain] at hdom
  simp [encodeArm, hreg, Nat.not_lt.mpr hlen, State.rows, hfit, hdom, State.imageOf]

theorem encodeResponse_of_inDomain {s : State} (hreg : s.reg = Registry.contents) {h : Header 32} {t : Tag}
    (hlen : h.common.dataLength.toNat ≤ 0xFFFFFF) (ht : h.tag = t.code) (hvariant : variantOf s.params.layout t h.fields) :
    encodeResponse s h = .ofBytes (s.imageOf t h.common h.fields).data := by
  rw [encodeResponse_of_registered s ht, encodeArm_of_inDomain hreg hlen hvariant]

theorem encodeResponse_of_outOfDomain {s : State} {h : Header 32} (hout : ¬ headerInDomain s.params.layout h) :
    encodeResponse s h = .error .rangeError := by
  cases ht : Tag.ofCode h.tag with
  | none => rw [encodeResponse, ht]
  | some t =>
    rw [Tag.ofCode_eq_some] at ht
    rw [encodeResponse_of_registered s ht]
    rcases encodeArm_cases s t h.common h.fields with ⟨-, herror⟩ | ⟨-, hlen, hfit, hdom, -⟩
    · exact herror
    · exact absurd ⟨hlen, t, ht, hfit, (domainArm_iff_fieldsInDomain t _).mp hdom⟩ hout

/-- Settles O33: out of the domain some check of ENCODE fails, and in it the answer is bytes. -/
theorem encodeFailsExactlyOutOfDomain : Obligations.EncodeFailsExactlyOutOfDomain := by
  intro s h hreg hport
  rw [exec_encode hport, next_withResponse_inj hport]
  refine ⟨fun herror ⟨hlen, t, ht, hvariant⟩ => ?_, encodeResponse_of_outOfDomain⟩
  rw [encodeResponse_of_inDomain hreg hlen ht hvariant] at herror
  simpa using congrArg Response.status herror

/-! ### Byte 0 -/

theorem getLsbD_firstByte_retry (c : Common 32) (op : BitVec 6) : (firstByte c (op.setWidth 8)).getLsbD 7 = c.retry := by
  cases hr : c.retry <;> cases hi : c.immediate <;> simp [firstByte, flag, hr, hi]

theorem getLsbD_firstByte_immediate (c : Common 32) (op : BitVec 6) :
    (firstByte c (op.setWidth 8)).getLsbD 6 = c.immediate := by
  cases hr : c.retry <;> cases hi : c.immediate <;> simp [firstByte, flag, hr, hi]

theorem getLsbD_flag_of_ne (x : Bool) {i j : Nat} (h : i ≠ j) : (flag x i).getLsbD j = false := by
  cases x
  · simp [flag]
  · exact (BitVec.getLsbD_twoPow i j).trans (by simp [h])

/-- The control bits of byte 0 lie outside the opcode (R62). -/
theorem extractLsb'_firstByte (c : Common 32) (op : BitVec 6) : (firstByte c (op.setWidth 8)).extractLsb' 0 6 = op := by
  apply BitVec.eq_of_getLsbD_eq
  intro i hi
  simp only [firstByte, BitVec.getLsbD_extractLsb', Nat.zero_add, BitVec.getLsbD_or,
    getLsbD_flag_of_ne _ (show 7 ≠ i by omega), getLsbD_flag_of_ne _ (show 6 ≠ i by omega), BitVec.getLsbD_setWidth, hi,
    show i < 8 by omega, decide_true, Bool.true_and, Bool.false_or]

/-! ### What ENCODE writes under a legal table -/

theorem extractLsb'_bytes_three (v : BitVec 32) :
    v.extractLsb' 16 8 ++ v.extractLsb' 8 8 ++ v.extractLsb' 0 8 = v.extractLsb' 0 24 := by
  apply BitVec.eq_of_toNat_eq
  simp only [toNat_append_byte, BitVec.extractLsb'_toNat, Nat.shiftRight_eq_div_pow]
  omega

theorem extractLsb'_bytes_four (v : BitVec 32) :
    v.extractLsb' 24 8 ++ v.extractLsb' 16 8 ++ v.extractLsb' 8 8 ++ v.extractLsb' 0 8 = v := by
  apply BitVec.eq_of_toNat_eq
  simp only [toNat_append_byte, BitVec.extractLsb'_toNat, Nat.shiftRight_eq_div_pow]
  omega

theorem lawfulRows {s : State} (hl : s.params.layout.lawful) (t : Tag) : Layout.LawfulRows t (s.rows t) := hl t

section Image

variable {s : State} (hl : s.params.layout.lawful) {t : Tag} (c : Common 32) {fields : Fields}
  (hf : fieldsFit (s.rows t) fields = true)
include hl hf

/-- The rows of a legal table leave the bytes of the common template as the common step wrote them (R61). -/
theorem read_imageOf_common {k : Nat} (hk : k = 0 ∨ 4 ≤ k ∧ k < 8 ∨ 16 ≤ k ∧ k < 20) :
    (s.imageOf t c fields).read k = (writeCommon s.params.tmfBit7 t c).read k :=
  read_writeFields_common (lawfulRows hl t) hf _ hk

theorem read_imageOf_zero : (s.imageOf t c fields).read 0 = firstByte c (t.code.setWidth 8) := by
  rw [read_imageOf_common hl c hf (by omega), read_writeCommon, ← byteZero_eq_firstByte]
  rfl

theorem read_imageOf_four : (s.imageOf t c fields).read 4 = c.ahsLength := by
  rw [read_imageOf_common hl c hf (by omega), read_writeCommon]
  rfl

theorem dataLength_imageOf :
    (s.imageOf t c fields).read 5 ++ (s.imageOf t c fields).read 6 ++ (s.imageOf t c fields).read 7
      = c.dataLength.extractLsb' 0 24 := by
  rw [← extractLsb'_bytes_three, read_imageOf_common hl c hf (by omega), read_imageOf_common hl c hf (by omega),
    read_imageOf_common hl c hf (by omega)]
  simp only [read_writeCommon]
  rfl

theorem wordAt_imageOf : wordAt (s.imageOf t c fields) 16 = c.itt := by
  conv_rhs => rw [← extractLsb'_bytes_four c.itt]
  rw [wordAt, read_imageOf_common hl c hf (by omega), read_imageOf_common hl c hf (by omega),
    read_imageOf_common hl c hf (by omega), read_imageOf_common hl c hf (by omega)]
  simp only [read_writeCommon]
  rfl

theorem opcodeOf_imageOf : opcodeOf (s.imageOf t c fields) = t.code := by
  rw [opcodeOf_eq_extractLsb', read_imageOf_zero hl c hf, extractLsb'_firstByte]

/-- The arm of `t` reads back the header whose bytes these are (R262). -/
theorem widenHeader_headerAt_imageOf (hlen : c.dataLength.toNat ≤ 0xFFFFFF) :
    widenHeader (s.headerAt t (s.imageOf t c fields)) = ⟨c, t.code, fields⟩ := by
  have hfields : readFields (s.rows t) (s.imageOf t c fields) = fields :=
    readFields_writeFields_writeCommon (lawfulRows hl t) hf s.params.tmfBit7 c
  have hdata : (c.dataLength.extractLsb' 0 24).setWidth 32 = c.dataLength := by
    apply BitVec.eq_of_toNat_eq
    rw [BitVec.toNat_setWidth, BitVec.extractLsb'_toNat, Nat.shiftRight_zero]
    omega
  rw [State.headerAt, hfields, readCommon_eq_commonAt, commonAt, read_imageOf_zero hl c hf, read_imageOf_four hl c hf,
    dataLength_imageOf hl c hf, wordAt_imageOf hl c hf, getLsbD_firstByte_retry, getLsbD_firstByte_immediate, widenHeader,
    hdata]

end Image

/-- Settles O34: the common fields by the bytes of the common template, and one value of `OUT` for each of the 48 bytes. -/
theorem encodeWritesCommonFields : Obligations.EncodeWritesCommonFields := by
  rintro s h ⟨hreg, hl⟩ hport ⟨hlen, t, ht, hvariant⟩
  have hfit : fieldsFit (s.rows t) h.fields = true := hvariant.1
  refine ⟨s.imageOf t h.common h.fields, ?_, ht ▸ read_imageOf_zero hl _ hfit, read_imageOf_four hl _ hfit,
    dataLength_imageOf hl _ hfit, wordAt_imageOf hl _ hfit, fun k => ?_⟩
  · rw [exec_encode hport, encodeResponse_of_inDomain hreg hlen ht hvariant]
  · split
    · next hk =>
      rw [readOut_withResponse hport, Response.ofBytes_out, Memory.read_ofBytes, Bytes.data_eq]
      simp [hk]
    · next hk =>
      refine readOut_withResponse_of_eq_none hport ?_
      rw [Response.ofBytes_out, Memory.read_ofBytes, List.getElem?_eq_none_iff, Bytes.data_length]
      exact Nat.not_lt.mp hk

/-! ### Encode, then decode (R262) -/

/-- The value that a legal table reads for a field with a check, by the bits of byte 1. -/
theorem numOf_flagsAt {t : Tag} {rows : List Row} (hl : Layout.LawfulRows t rows) {f : Field} {hi lo : Nat}
    (hr : ⟨f, .sub 1 hi lo⟩ ∈ Layout.checked t) (b : Header48) :
    numOf (readFields rows b) f = some (flagsAt b lo (hi - lo + 1)).toNat := by
  rw [numOf_checked hl hr b, setWidth_readFlag]

/-- The check of byte 1 and the domain of the fields that a legal table reads are one condition (R255, R258). -/
theorem checkArm_eq_none_iff_fieldsInDomain {t : Tag} {rows : List Row} (hl : Layout.LawfulRows t rows) (b : Header48) :
    checkArm t b = none ↔ fieldsInDomain t (readFields rows b) := by
  refine ⟨fieldsInDomain_readFields hl, fun h => ?_⟩
  cases t
  case scsiCmd =>
    have hattr : (flagsAt b 0 3).toNat ≤ 4 := h _ (numOf_flagsAt hl List.mem_cons_self b)
    rw [checkArm_scsiCmd, if_neg (Nat.not_lt.mpr hattr)]
  case tmfReq =>
    have hfunction : 1 ≤ (flagsAt b 0 7).toNat ∧ (flagsAt b 0 7).toNat ≤ 8 := h _ (numOf_flagsAt hl List.mem_cons_self b)
    rw [checkArm_tmfReq, if_neg (by omega)]
  case loginReq | loginRsp =>
    have hcsg : (flagsAt b 2 2).toNat ≠ 2 := h _ (.inl (numOf_flagsAt hl List.mem_cons_self b))
    have hnsg : (flagsAt b 0 2).toNat ≠ 2 := h _ (.inr (numOf_flagsAt hl (List.mem_cons_of_mem _ List.mem_cons_self) b))
    exact (checkLogin_eq b).trans (if_neg (by simpa [← BitVec.toNat_inj] using ⟨hcsg, hnsg⟩))
  all_goals rfl

/-- Settles O36: the image of the header has its tag's opcode, passes the check, and reads as the header. -/
theorem encodeThenDecodeReturnsHeader : Obligations.EncodeThenDecodeReturnsHeader := by
  rintro s ⟨c, _, fields⟩ ⟨hreg, hl⟩ hport ⟨hlen, t, rfl, hfit, hdom⟩
  have hheader := widenHeader_headerAt_imageOf hl c hfit hlen
  have hcheck : checkArm t (s.imageOf t c fields) = none := by
    have hfields : readFields (s.rows t) (s.imageOf t c fields) = fields := congrArg Header.fields hheader
    rwa [checkArm_eq_none_iff_fieldsInDomain (lawfulRows hl t), hfields]
  refine ⟨s.imageOf t c fields, ?encode, fun len hlen48 => ⟨s.headerAt t (s.imageOf t c fields), ?decode, hheader⟩⟩
  case encode => rw [exec_encode hport, encodeResponse_of_inDomain hreg hlen rfl ⟨hfit, hdom⟩]
  case decode => rw [exec_decode hport, decodeResponse_of_passes hreg hlen48 (opcodeOf_imageOf hl c hfit) hcheck]

/-! ### Decode, then encode (R263) -/

theorem read_u24 (o : Nat) (b : Header48) :
    (Kind.u24 o).read b = .num (b.read o ++ b.read (o + 1) ++ b.read (o + 2)).toNat :=
  congrArg _ (memRead_three b o)

/-- What a kind reads determines every position of the kind: a write of it gives them back. -/
theorem getLsbD_eq_of_read_eq {kind : Kind} (hk : kind.inHeader) {b b' : Header48} (h : kind.read b = kind.read b')
    {k i : Nat} (hi : i < 8) (hc : kindCovers kind k i = true) : (b.read k).getLsbD i = (b'.read k).getLsbD i := by
  have hzero : ∀ k i, k < 48 → i < 8 → kindCovers kind k i = true → ((Bytes.zero 48).read k).getLsbD i = false := by simp
  rw [← Kind.write_read hk b hzero hi hc, h, Kind.write_read hk b' hzero hi hc]

/-- The opcode and the common fields are what the kinds of the common template read (R61, R253). -/
theorem read_common_of_readCommon_eq {b b' : Header48} (hop : opcodeOf b = opcodeOf b') (h : readCommon b = readCommon b') :
    ∀ kind ∈ Layout.common, kind.read b = kind.read b' := by
  rw [opcodeOf_eq_extractLsb', opcodeOf_eq_extractLsb'] at hop
  rw [readCommon_eq_commonAt, readCommon_eq_commonAt, Common.mk.injEq] at h
  obtain ⟨hretry, himmediate, hahs, hdata, hitt⟩ := h
  simp only [Layout.common, List.forall_mem_cons, read_bit, read_sub, read_u8, read_u24, read_be32, hop, hretry, himmediate,
    hahs, hdata, hitt, List.not_mem_nil, false_implies, implies_true, and_self]

/-- Buffers that DECODE reads as one header of tag `t` agree on every named position. -/
theorem agreeOnNamed_of_headerAt_eq {s : State} {t : Tag} (hl : Layout.LawfulRows t (s.rows t)) {b b' : Header48}
    (hop : opcodeOf b = opcodeOf b') (h : s.headerAt t b = s.headerAt t b') : AgreeOnNamed (s.rows t) b b' := by
  rw [State.headerAt, State.headerAt, Header.mk.injEq] at h
  obtain ⟨hcommon, -, hfields⟩ := h
  have hrows : ∀ r ∈ s.rows t, r.kind.read b = r.kind.read b' := by simpa [readFields] using hfields
  intro k i _ hi hnamed
  rcases named_iff.mp hnamed with ⟨kind, hk, hc⟩ | ⟨r, hr, hc⟩
  · exact getLsbD_eq_of_read_eq (inHeader_common kind hk) (read_common_of_readCommon_eq hop hcommon kind hk) hi hc
  · exact getLsbD_eq_of_read_eq (hl.inHeader r hr) (hrows r hr) hi hc

theorem widenHeader_injective : Function.Injective widenHeader := by
  rintro ⟨⟨⟩, _, _⟩ ⟨⟨⟩, _, _⟩ h
  have hwiden : Function.Injective (BitVec.setWidth 32 : BitVec 24 → BitVec 32) := fun x y hxy => by
    simpa [BitVec.setWidth_setWidth_of_le] using congrArg (BitVec.setWidth 24) hxy
  simpa [widenHeader, hwiden.eq_iff] using h

theorem toNat_dataLength_widenHeader_le (h : Header 24) : (widenHeader h).common.dataLength.toNat ≤ 0xFFFFFF := by
  have := h.common.dataLength.isLt
  simp only [widenHeader, BitVec.toNat_setWidth]
  omega

/-- The fixed flags of byte 1 are what ENCODE writes there where no field does (R130). -/
theorem getLsbD_fixedFlags (tmfBit7 : Bool) (t : Tag) {i : Nat} (hi : i < 8) :
    (fixedFlags tmfBit7 t).getLsbD i = unnamedBit t tmfBit7 1 i := by
  by_cases ht : t = .tmfReq
  · subst ht
    rw [fixedFlags_tmfReq]
    by_cases h7 : i = 7
    · subst h7
      cases tmfBit7 <;> rfl
    · simp [getLsbD_flag_of_ne _ (Ne.symm h7), unnamedBit, h7]
  · simp [fixedFlags, unnamedBit, ht]

/-- ENCODE leaves an unnamed position clear, but for `P_TMF_BIT7` (R73, R130). -/
theorem getLsbD_imageOf_of_not_named {s : State} (hl : s.params.layout.lawful) {t : Tag} (c : Common 32) {fields : Fields}
    (hf : fieldsFit (s.rows t) fields = true) {k i : Nat} (hi : i < 8) (hn : named (s.rows t) k i = false) :
    ((s.imageOf t c fields).read k).getLsbD i = unnamedBit t s.params.tmfBit7 k i := by
  have hcommon : ¬ (k = 0 ∨ 4 ≤ k ∧ k < 8 ∨ 16 ≤ k ∧ k < 20) := fun hk => by simp [named_common _ hk hi] at hn
  have hrows : ∀ r ∈ s.rows t, kindCovers r.kind k i = false := fun r hr =>
    Bool.eq_false_iff.mpr fun hc => by simp [named_iff.mpr (.inr ⟨r, hr, hc⟩)] at hn
  rw [State.imageOf, writeFields_frame (lawfulRows hl t).inHeader hf _ hi hrows, read_writeCommon, if_neg (by omega),
    if_neg (by omega), if_neg (by omega), if_neg (show k ≠ 0 by omega)]
  split
  · next h1 => rw [h1, getLsbD_fixedFlags _ _ hi]
  · next h1 => simp [unnamedBit, h1]

/-- The image of a decoded header reads as that header, so it agrees with the buffer on the named positions (R263). -/
theorem getLsbD_imageOf_headerAt {s : State} (hl : s.params.layout.lawful) {t : Tag} {b : Header48} (hop : opcodeOf b = t.code)
    {k i : Nat} (hk : k < 48) (hi : i < 8) :
    ((s.imageOf t (widenHeader (s.headerAt t b)).common (readFields (s.rows t) b)).read k).getLsbD i
      = if named (s.rows t) k i = true then (b.read k).getLsbD i else unnamedBit t s.params.tmfBit7 k i := by
  have hfit := fieldsFit_readFields (s.rows t) b
  generalize hc : (widenHeader (s.headerAt t b)).common = c
  split
  · next hnamed =>
    have hlen : c.dataLength.toNat ≤ 0xFFFFFF := hc ▸ toNat_dataLength_widenHeader_le _
    have hwide : widenHeader (s.headerAt t (s.imageOf t c (readFields (s.rows t) b))) = widenHeader (s.headerAt t b) := by
      rw [widenHeader_headerAt_imageOf hl c hfit hlen, ← hc]
      rfl
    have hopcode := (opcodeOf_imageOf hl c hfit).trans hop.symm
    exact agreeOnNamed_of_headerAt_eq (lawfulRows hl t) hopcode (widenHeader_injective hwide) k i hk hi hnamed
  · next hnamed => exact getLsbD_imageOf_of_not_named hl c hfit hi (Bool.eq_false_iff.mpr hnamed)

/-- Settles O37: the buffer is accepted by the arm of one tag, and ENCODE answers the image of what that arm read. -/
theorem decodeThenEncodeClearsReserved : Obligations.DecodeThenEncodeClearsReserved := by
  rintro s len b h ⟨hreg, hl⟩ hport hdecode
  rw [exec_decode hport, next_withResponse_inj hport] at hdecode
  obtain ⟨-, t, hop, hcheck, rfl⟩ := decodeResponse_eq_ofHeader hreg hdecode
  have hbits := @getLsbD_imageOf_headerAt s hl t b hop
  refine ⟨t, _, rfl, ?encode, fun k i => hbits, ?fixed⟩
  case encode =>
    rw [exec_encode hport, encodeResponse_of_inDomain hreg (toNat_dataLength_widenHeader_le _) rfl
      ⟨fieldsFit_readFields _ b, fieldsInDomain_readFields (lawfulRows hl t) hcheck⟩]
    rfl
  case fixed =>
    refine ⟨fun hz k i hk hi hn => ?_, fun hreserved => Bytes.ext_bit fun k i hk hi => ?_⟩
    · have hbit := hbits hk hi
      rwa [hz, if_neg (Bool.eq_false_iff.mp hn)] at hbit
    · rw [hbits hk hi]
      split
      · rfl
      · next hn => exact (hreserved k i hk hi (Bool.eq_false_iff.mpr hn)).symm

/-! ### The control bits (R265) -/

/-- `b` with the control bits of byte 0 replaced (R62). -/
abbrev withControlBits (b : Header48) (r i : Bool) : Header48 :=
  b.put 0 (flag r 7 ||| flag i 6 ||| (b.read 0 &&& 0x3F))

/-- A response whose header, where it has one, has these control fields. -/
def Response.withControl (x : Response) (r i : Bool) : Response :=
  { x with hdrOut := x.hdrOut.map fun h => { h with common := { h.common with retry := r, immediate := i } } }

section ControlBits

variable (b : Header48) (r i : Bool)

theorem read_withControlBits_of_ne {k : Nat} (hk : k ≠ 0) : (withControlBits b r i).read k = b.read k := by
  rw [Bytes.read_put, if_neg fun h => hk h.1.symm]

theorem read_withControlBits_zero :
    (withControlBits b r i).read 0 = firstByte { retry := r, immediate := i } ((opcodeOf b).setWidth 8) := by
  have hop : ∀ x : Byte, x &&& 0x3F = ((x &&& 0x3F).setWidth 6).setWidth 8 := by decide
  rw [Bytes.read_put, if_pos ⟨rfl, by decide⟩, hop]
  rfl

theorem opcodeOf_withControlBits : opcodeOf (withControlBits b r i) = opcodeOf b := by
  rw [opcodeOf_eq_extractLsb', read_withControlBits_zero, extractLsb'_firstByte]

/-- The checks read byte 1 alone (R255). -/
theorem checkArm_withControlBits (t : Tag) : checkArm t (withControlBits b r i) = checkArm t b := by
  have hflags := read_withControlBits_of_ne b r i Nat.one_ne_zero
  cases t
  case scsiCmd => rw [checkArm, checkArm, checkScsiCmd, checkScsiCmd, hflags]
  case tmfReq => rw [checkArm, checkArm, checkTmfReq, checkTmfReq, hflags]
  case loginReq | loginRsp => rw [checkArm, checkArm, checkLogin, checkLogin, hflags]
  all_goals rfl

theorem readCommon_withControlBits :
    readCommon (withControlBits b r i) = { readCommon b with retry := r, immediate := i } := by
  have hrest {k : Nat} (hk : k ≠ 0) := read_withControlBits_of_ne b r i hk
  simp (disch := decide) only [readCommon_eq_commonAt, commonAt, wordAt, read_withControlBits_zero, getLsbD_firstByte_retry,
    getLsbD_firstByte_immediate, hrest]

/-- The rows of a legal table take in no bit of byte 0, which is the common template's (R61, R71). -/
theorem readFields_withControlBits {t : Tag} {rows : List Row} (hl : Layout.LawfulRows t rows) :
    readFields rows (withControlBits b r i) = readFields rows b := by
  refine readFields_congr hl.inHeader fun q hq k j _ hj hc => ?_
  by_cases hk : k = 0
  · obtain ⟨a, ha, hca⟩ := exists_common_covers (.inl hk) hj
    simp [not_covers_of_fixed hl (List.mem_append_left _ ha) hq hj hca] at hc
  · rw [read_withControlBits_of_ne b r i hk]

/-- Other control bits change a DECODE by the control fields of its header, if it answers one. -/
theorem decodeResponse_withControlBits {s : State} (hs : s.lawful) (len : Nat) :
    decodeResponse s len (withControlBits b r i) = (decodeResponse s len b).withControl r i := by
  obtain ⟨hreg, hl⟩ := hs
  have hopcode := opcodeOf_withControlBits b r i
  rcases decodeResponse_cases hreg len b with
    ⟨hlen, hr⟩ | ⟨hlen, hop, hr⟩ | ⟨hlen, t, hop, st, hcheck, hr⟩ | ⟨hlen, t, hop, hcheck, hr⟩ <;> rw [hr]
  · exact decodeResponse_of_short s _ hlen
  · rw [decodeResponse_of_reserved hreg hlen (hopcode ▸ hop), hopcode]
    rfl
  · exact decodeResponse_of_fails hreg hlen (hopcode.trans hop) ((checkArm_withControlBits b r i t).trans hcheck)
  · rw [decodeResponse_of_passes hreg hlen (hopcode.trans hop) ((checkArm_withControlBits b r i t).trans hcheck),
      State.headerAt, readCommon_withControlBits, readFields_withControlBits b r i (lawfulRows hl t)]
    rfl

end ControlBits

/-- Settles O38: an error has no header to change, and the control fields are all that changes in a header. -/
theorem controlBitsAreIndependent : Obligations.ControlBitsAreIndependent := by
  intro s len b r i hs hport
  simp only [exec_decode hport, next_withResponse_inj hport, decodeResponse_withControlBits b r i hs]
  exact ⟨fun st h => by rw [h]; rfl, fun h hr => by rw [hr]; rfl⟩

end Sys2Proof.Machine
end

section
/-!
Errors (60_exceptions.md): the codes of the kinds of response (R290), and an error, which carries its status and no other signal
(R298).
-/

namespace Sys2Proof.Machine

/-! ### The codes of the kinds -/

/-- The code says the kind and not the payload: two constructors have one numeral exactly on the diagonal (R290). -/
theorem Status.code_eq_iff_sameKind (a b : Status) : a.code = b.code ↔ a.sameKind b := by
  cases a <;> cases b <;> simp [Status.code]

/-- Code 7 is unused (R290). -/
theorem Status.code_ne_seven (a : Status) : a.code ≠ 7 := by
  cases a <;> simp [Status.code]

/-- Settles O58: the codes by definition; after an instruction both signals are read from the response it delivered. -/
theorem statusSignalCarriesTheKindOfTheResponse : Obligations.StatusSignalCarriesTheKindOfTheResponse := by
  refine ⟨?codes, Status.code_eq_iff_sameKind, Status.code_ne_seven, fun i s t h => ?signal⟩
  case codes => exact ⟨rfl, fun _ => rfl, fun _ => rfl, fun _ => rfl, fun _ => rfl, fun _ => rfl, rfl⟩
  case signal =>
    obtain ⟨r, hlt, rfl⟩ := exec_eq_next h
    exact ⟨r.status, readStatus_withResponse hlt, readStatusCode_withResponse hlt⟩

/-! ### What an error carries -/

/-- A response that an instruction can have given and that is not Ok carries its status alone (R298). -/
theorem State.CanAnswer.eq_error {s : State} {w : Nat} {r : Response} (h : s.CanAnswer w r) (hne : r.status ≠ .ok) :
    r = .error r.status := by
  cases h with
  | error => rfl
  | header | bytes | int | entry => exact absurd rfl hne

/-- A signal that the response did not produce has no value to read (R26, R298). -/
theorem readSignal_withResponse_of_eq_none {α : Type} {s : State} {r : Response} {signal : Response → Option α}
    (h : s.active < s.ports.length) (hnone : signal r = none) :
    (s.withResponse r).readSignal s.active signal = .error (.signalNotValid s.active) := by
  rw [readSignal_withResponse signal h, hnone]

/-- Settles O45: a response that is not Ok is an error response, in which every signal but the status is absent. -/
theorem errorsCarryNoOtherSignal : Obligations.ErrorsCarryNoOtherSignal := by
  intro i s t st h hst hne
  obtain ⟨r, hlt, rfl, hcan⟩ := exec_eq_next_canAnswer h
  have hstatus : r.status = st := Except.ok.inj ((readStatus_withResponse hlt).symm.trans hst)
  have hr : r = .error st := hstatus ▸ hcan.eq_error (hstatus ▸ hne)
  subst hr
  have absent {α : Type} {signal : Response → Option α} (hnone : signal (.error st) = none) :=
    readSignal_withResponse_of_eq_none hlt hnone
  exact ⟨absent rfl, absent rfl, absent rfl, fun _ => absent rfl, absent rfl, absent rfl, rfl⟩

end Sys2Proof.Machine
end

section
/-!
Reset and hazards (70_reset_and_hazards.md): what every step leaves unchanged (R21, R234, R323), the responses after a reset (R31,
R320), and the requests of a machine in reset (R322).
-/

namespace Sys2Proof.Machine

/-! ### What a step leaves unchanged -/

/-- Settles O51: an idle step changes nothing, and any other only takes the oldest request and sets one port's response. -/
theorem stepNeverChangesTheRegistry : Obligations.StepNeverChangesTheRegistry := by
  intro s t h
  rcases step_eq_next h with ⟨-, rfl⟩ | ⟨p, rest, i, r, -, -, -, -, -, rfl⟩
  · exact ⟨rfl, rfl, rfl, rfl⟩
  · exact ⟨rfl, rfl, rfl, length_withResponse⟩

/-! ### Responses after reset -/

/-- Reading a port of a block in which no port has given a response faults (R31). -/
theorem readResponse_of_forall_unset {s : State} (hunset : ∀ port ∈ s.ports, port.response = none) {p : Nat}
    (hp : p < s.ports.length) : s.readResponse p = .error (.noResponseYet p) := by
  simp only [State.readResponse, List.getElem?_eq_getElem hp, hunset _ (List.getElem_mem hp)]

theorem reset_ports_unset : ∀ port ∈ State.reset.ports, port.response = none := fun _ hport =>
  List.eq_of_mem_replicate hport ▸ rfl

theorem endReset_ports_unset (s : State) : ∀ port ∈ s.endReset.ports, port.response = none := by
  simp

/-- Settles O50: no port holds a response at reset or after its end, and `stepNeverChangesTheRegistry` keeps the registry. -/
theorem responsesAreUnsetAfterReset : Obligations.ResponsesAreUnsetAfterReset := by
  refine ⟨⟨rfl, fun p => readResponse_of_forall_unset reset_ports_unset⟩, fun s => ⟨rfl, rfl, rfl, rfl, fun p hp => ?_⟩,
    fun s t h => (stepNeverChangesTheRegistry s t h).1⟩
  exact readResponse_of_forall_unset (endReset_ports_unset s.beginReset) (by simpa using hp)

/-! ### Requests during reset -/

/-- Before the end of reset a request is refused, whatever it spells (R322). -/
theorem step_of_inReset {s : State} {p : Presented} {rest : List Presented} (hr : s.inReset = true)
    (hp : s.pending = p :: rest) : step s = .refused .requestBeforeResetEnd := by
  simp [step, hp, hr]

/-- Settles O52: `beginReset` raises the flag that makes the step refuse, and `endReset` lowers it. -/
theorem requestsDuringResetAreRefused : Obligations.RequestsDuringResetAreRefused :=
  fun _ _ _ => ⟨step_of_inReset rfl rfl, fun _ hd => step_of_decode_ok rfl rfl hd⟩

end Sys2Proof.Machine
end
